-- ==== Sys2Proof/Word.lean ====
section
/-! DEFINITION. The words of the command port and of the PPU's tables (30_encoding.md R72, 20_memory.md R53). -/

namespace Sys2Proof

/-- `u8`: an opcode, an index operand, a color, one byte of the command port (R72). A hardware-color index is 8 bits wide
(00_scope.md R7, D4). -/
abbrev Byte := BitVec 8

/-- `u16` and `s16`: read with `toNat` where the spec says unsigned, with `toInt` where it says two's complement (R72). -/
abbrev Half := BitVec 16

/-- `u32`: payload count of WRITE_PATTERN, framebuffer length of RENDER (R72). -/
abbrev Word := BitVec 32

end Sys2Proof
end

