-- ==== Sys2Proof/Syntax.lean ====
section
/-! DEFINITION. The command set: one constructor per row of spec/opcode_table.json (30_encoding.md R74), operands in the order
of the row. A payload is a list of bytes, its count is the list's length (R71, R82). -/

namespace Sys2Proof

/-- The 26 commands of 30_encoding.md R74, every operand whole as the port carries it (R79). -/
inductive Instr where
  | writePattern (table start : Byte) (pixels : List Byte)
  | readPatternPixel (table pattern x y : Byte)
  | setTile (nt x y pattern : Byte)
  | setTilePalette (nt x y pal : Byte)
  | setBgPaletteColor (pal slot color : Byte)
  | setBgPalette (pal c0 c1 c2 c3 : Byte)
  | setBgPaletteBulk (pal : Byte) (colors : List Byte)
  | setBgPatternTable (index : Byte)
  | setBgColor (color : Byte)
  | readBgPalette (pal slot : Byte)
  | bgGet (x y : Half)
  | setSprite (slot : Byte) (x y : Half) (tile pal attr : Byte)
  | setSpritePosition (slot : Byte) (x y : Half)
  | setSpritePaletteColor (pal slot color : Byte)
  | setSpritePalette (pal c0 c1 c2 c3 : Byte)
  | setSpritePaletteBulk (pal : Byte) (colors : List Byte)
  | setSpritePatternTable (index : Byte)
  | readSpritePalette (pal slot : Byte)
  | readSprite (slot : Byte)
  | findSprites (x y : Half)
  | findSpritesRow (y : Half)
  | setScroll (x y : Half)
  | setCallback (ctrl : Byte)
  | render (w h : Half) (len : Word)
  | callbackReturn
  | readCtrl (reg : Byte)
  deriving DecidableEq, Repr

end Sys2Proof
end

