-- ==== Sys2Proof/WellFormed.lean ====
section
/-! DEFINITION. Which terms of `Instr` are commands. Every operand value is legal (30_encoding.md R79); the one thing a term can
get wrong is a payload whose count does not fit its count field (R73: `n:u16` of F_BULK, `n:u32` of F_PAT). -/

namespace Sys2Proof

/-- The payload's count fits the count field of the command's format (R73). -/
def Instr.wellFormed : Instr → Bool
  | .writePattern _ _ pixels => decide (pixels.length < 4294967296)
  | .setBgPaletteBulk _ colors => decide (colors.length < 65536)
  | .setSpritePaletteBulk _ colors => decide (colors.length < 65536)
  | .readPatternPixel _ _ _ _ => true
  | .setTile _ _ _ _ => true
  | .setTilePalette _ _ _ _ => true
  | .setBgPaletteColor _ _ _ => true
  | .setBgPalette _ _ _ _ _ => true
  | .setBgPatternTable _ => true
  | .setBgColor _ => true
  | .readBgPalette _ _ => true
  | .bgGet _ _ => true
  | .setSprite _ _ _ _ _ _ => true
  | .setSpritePosition _ _ _ => true
  | .setSpritePaletteColor _ _ _ => true
  | .setSpritePalette _ _ _ _ _ => true
  | .setSpritePatternTable _ => true
  | .readSpritePalette _ _ => true
  | .readSprite _ => true
  | .findSprites _ _ => true
  | .findSpritesRow _ => true
  | .setScroll _ _ => true
  | .setCallback _ => true
  | .render _ _ _ => true
  | .callbackReturn => true
  | .readCtrl _ => true

end Sys2Proof
end

