-- ==== Sys2Proof/Decode.lean ====
section
/-! DEFINITION. The byte serialisation of a command (30_encoding.md R71, R73, R74, R75): the decoder, total on any bytes and
rejecting by name, and after it the encoder. -/

namespace Sys2Proof

/-! ### Byte order (20_memory.md R53: little-endian, least significant byte first) -/

/-- A 16-bit field from its two bytes, the first the least significant. -/
def le16 (b0 b1 : Byte) : Half := b1 ++ b0

/-- A 32-bit field from its four bytes, the first the least significant. -/
def le32 (b0 b1 b2 b3 : Byte) : Word := b3 ++ b2 ++ b1 ++ b0

/-- The two bytes of a 16-bit field, least significant first. -/
def bytes16 (v : Half) : List Byte := [v.extractLsb' 0 8, v.extractLsb' 8 8]

/-- The four bytes of a 32-bit field, least significant first. -/
def bytes32 (v : Word) : List Byte :=
  [v.extractLsb' 0 8, v.extractLsb' 8 8, v.extractLsb' 16 8, v.extractLsb' 24 8]

/-! ### The decoder -/

/-- Why bytes are no command: the two causes of 60_exceptions.md R201 that decoding raises. -/
inductive DecodeError where
  /-- The opcode byte is reserved (R78). -/
  | illegalOpcode
  /-- The bytes end before the command's length is reached (R75). -/
  | malformed
  deriving DecidableEq, Repr

/-- A command and the bytes after it, or why there is none. -/
abbrev Decoded := Except DecodeError (Instr × List Byte)

/-- F_B1 (R73): one byte operand after the opcode. -/
def decodeB1 (k : Byte → Instr) : List Byte → Decoded
  | a :: rest => .ok (k a, rest)
  | _ => .error .malformed

/-- F_B2 (R73). -/
def decodeB2 (k : Byte → Byte → Instr) : List Byte → Decoded
  | a :: b :: rest => .ok (k a b, rest)
  | _ => .error .malformed

/-- F_B3 (R73). -/
def decodeB3 (k : Byte → Byte → Byte → Instr) : List Byte → Decoded
  | a :: b :: c :: rest => .ok (k a b c, rest)
  | _ => .error .malformed

/-- F_B4 (R73). -/
def decodeB4 (k : Byte → Byte → Byte → Byte → Instr) : List Byte → Decoded
  | a :: b :: c :: d :: rest => .ok (k a b c d, rest)
  | _ => .error .malformed

/-- F_B5 (R73). -/
def decodeB5 (k : Byte → Byte → Byte → Byte → Byte → Instr) : List Byte → Decoded
  | a :: c0 :: c1 :: c2 :: c3 :: rest => .ok (k a c0 c1 c2 c3, rest)
  | _ => .error .malformed

/-- F_XYU and F_XYS (R73): two 16-bit operands. -/
def decodeXY (k : Half → Half → Instr) : List Byte → Decoded
  | x0 :: x1 :: y0 :: y1 :: rest => .ok (k (le16 x0 x1) (le16 y0 y1), rest)
  | _ => .error .malformed

/-- F_YU (R73): one 16-bit operand. -/
def decodeYU (k : Half → Instr) : List Byte → Decoded
  | y0 :: y1 :: rest => .ok (k (le16 y0 y1), rest)
  | _ => .error .malformed

/-- F_SPR (R73). -/
def decodeSpr (k : Byte → Half → Half → Byte → Byte → Byte → Instr) : List Byte → Decoded
  | slot :: x0 :: x1 :: y0 :: y1 :: tile :: pal :: attr :: rest =>
    .ok (k slot (le16 x0 x1) (le16 y0 y1) tile pal attr, rest)
  | _ => .error .malformed

/-- F_SPRPOS (R73). -/
def decodeSprPos (k : Byte → Half → Half → Instr) : List Byte → Decoded
  | slot :: x0 :: x1 :: y0 :: y1 :: rest => .ok (k slot (le16 x0 x1) (le16 y0 y1), rest)
  | _ => .error .malformed

/-- The counted payload of F_BULK and F_PAT (R71): exactly `n` bytes, or the stream ended too soon (R75). -/
def decodePayload (k : List Byte → Instr) (n : Nat) (bs : List Byte) : Decoded :=
  if bs.length < n then .error .malformed else .ok (k (bs.take n), bs.drop n)

/-- F_BULK (R73): palette, 16-bit count, payload. -/
def decodeBulk (k : Byte → List Byte → Instr) : List Byte → Decoded
  | pal :: n0 :: n1 :: rest => decodePayload (k pal) (le16 n0 n1).toNat rest
  | _ => .error .malformed

/-- F_PAT (R73): table, start, 32-bit count, payload. -/
def decodePat (k : Byte → Byte → List Byte → Instr) : List Byte → Decoded
  | table :: start :: n0 :: n1 :: n2 :: n3 :: rest =>
    decodePayload (k table start) (le32 n0 n1 n2 n3).toNat rest
  | _ => .error .malformed

/-- F_RENDER (R73). -/
def decodeRender (k : Half → Half → Word → Instr) : List Byte → Decoded
  | w0 :: w1 :: h0 :: h1 :: l0 :: l1 :: l2 :: l3 :: rest =>
    .ok (k (le16 w0 w1) (le16 h0 h1) (le32 l0 l1 l2 l3), rest)
  | _ => .error .malformed

/-- The opcode map (R74): the operands of the command that opcode byte `op` selects are read from `bs`; any other opcode byte is
reserved (R78). -/
def decodeOperands (op : Byte) (bs : List Byte) : Decoded :=
  match op.toNat with
  | 0x10 => decodePat .writePattern bs
  | 0x11 => decodeB4 .readPatternPixel bs
  | 0x20 => decodeB4 .setTile bs
  | 0x21 => decodeB4 .setTilePalette bs
  | 0x22 => decodeB3 .setBgPaletteColor bs
  | 0x23 => decodeB5 .setBgPalette bs
  | 0x24 => decodeBulk .setBgPaletteBulk bs
  | 0x25 => decodeB1 .setBgPatternTable bs
  | 0x26 => decodeB1 .setBgColor bs
  | 0x27 => decodeB2 .readBgPalette bs
  | 0x28 => decodeXY .bgGet bs
  | 0x30 => decodeSpr .setSprite bs
  | 0x31 => decodeSprPos .setSpritePosition bs
  | 0x32 => decodeB3 .setSpritePaletteColor bs
  | 0x33 => decodeB5 .setSpritePalette bs
  | 0x34 => decodeBulk .setSpritePaletteBulk bs
  | 0x35 => decodeB1 .setSpritePatternTable bs
  | 0x36 => decodeB2 .readSpritePalette bs
  | 0x37 => decodeB1 .readSprite bs
  | 0x38 => decodeXY .findSprites bs
  | 0x39 => decodeYU .findSpritesRow bs
  | 0x40 => decodeXY .setScroll bs
  | 0x41 => decodeB1 .setCallback bs
  | 0x42 => decodeRender .render bs
  | 0x43 => .ok (.callbackReturn, bs)
  | 0x44 => decodeB1 .readCtrl bs
  | _ => .error .illegalOpcode

/-- The command at the front of a byte stream and the bytes after it (R71, R75). The opcode is looked at first, so a reserved
opcode is reported before a short stream (60_exceptions.md R202). -/
def decode : List Byte → Decoded
  | [] => .error .malformed
  | op :: bs => decodeOperands op bs

/-! ### The encoder -/

/-- A payload with its 16-bit count before it (F_BULK, R73). -/
def encodeBulk (op pal : Byte) (colors : List Byte) : List Byte :=
  op :: pal :: (bytes16 (BitVec.ofNat 16 colors.length) ++ colors)

/-- The bytes of a command in port order (R71, R73, R74). -/
def encode : Instr → List Byte
  | .writePattern table start pixels =>
    0x10 :: table :: start :: (bytes32 (BitVec.ofNat 32 pixels.length) ++ pixels)
  | .readPatternPixel table pattern x y => [0x11, table, pattern, x, y]
  | .setTile nt x y pattern => [0x20, nt, x, y, pattern]
  | .setTilePalette nt x y pal => [0x21, nt, x, y, pal]
  | .setBgPaletteColor pal slot color => [0x22, pal, slot, color]
  | .setBgPalette pal c0 c1 c2 c3 => [0x23, pal, c0, c1, c2, c3]
  | .setBgPaletteBulk pal colors => encodeBulk 0x24 pal colors
  | .setBgPatternTable index => [0x25, index]
  | .setBgColor color => [0x26, color]
  | .readBgPalette pal slot => [0x27, pal, slot]
  | .bgGet x y => 0x28 :: (bytes16 x ++ bytes16 y)
  | .setSprite slot x y tile pal attr => 0x30 :: slot :: (bytes16 x ++ bytes16 y ++ [tile, pal, attr])
  | .setSpritePosition slot x y => 0x31 :: slot :: (bytes16 x ++ bytes16 y)
  | .setSpritePaletteColor pal slot color => [0x32, pal, slot, color]
  | .setSpritePalette pal c0 c1 c2 c3 => [0x33, pal, c0, c1, c2, c3]
  | .setSpritePaletteBulk pal colors => encodeBulk 0x34 pal colors
  | .setSpritePatternTable index => [0x35, index]
  | .readSpritePalette pal slot => [0x36, pal, slot]
  | .readSprite slot => [0x37, slot]
  | .findSprites x y => 0x38 :: (bytes16 x ++ bytes16 y)
  | .findSpritesRow y => 0x39 :: bytes16 y
  | .setScroll x y => 0x40 :: (bytes16 x ++ bytes16 y)
  | .setCallback ctrl => [0x41, ctrl]
  | .render w h len => 0x42 :: (bytes16 w ++ bytes16 h ++ bytes32 len)
  | .callbackReturn => [0x43]
  | .readCtrl reg => [0x44, reg]

/-! ### The opcode table's numbering -/

/-- The length in bytes of the command whose serialisation begins with `bs` (R75): fixed by the format, or the fixed part plus
the count its count field holds. A byte that is not there counts as 0. -/
def commandLength (bs : List Byte) : Nat :=
  match (bs.getD 0 0).toNat with
  | 0x10 => 7 + (le32 (bs.getD 3 0) (bs.getD 4 0) (bs.getD 5 0) (bs.getD 6 0)).toNat
  | 0x11 => 5
  | 0x20 => 5
  | 0x21 => 5
  | 0x22 => 4
  | 0x23 => 6
  | 0x24 => 4 + (le16 (bs.getD 2 0) (bs.getD 3 0)).toNat
  | 0x25 => 2
  | 0x26 => 2
  | 0x27 => 3
  | 0x28 => 5
  | 0x30 => 9
  | 0x31 => 6
  | 0x32 => 4
  | 0x33 => 6
  | 0x34 => 4 + (le16 (bs.getD 2 0) (bs.getD 3 0)).toNat
  | 0x35 => 2
  | 0x36 => 3
  | 0x37 => 2
  | 0x38 => 5
  | 0x39 => 3
  | 0x40 => 5
  | 0x41 => 2
  | 0x42 => 9
  | 0x43 => 1
  | 0x44 => 2
  | _ => 1

/-- The first `count` bytes of an instruction whose bits are `w`, bit 0 the least significant bit of the first byte. -/
def wordBytes (w count : Nat) : List Byte :=
  (List.range count).map fun k => BitVec.ofNat 8 (w >>> (8 * k))

/-- The bytes of the command that `nbits` bits of `w` begin, every bit above `nbits` being 0: as many as the command's length
says (R75), and never fewer than the bits given. -/
def tableBytes (nbits w : Nat) : List Byte :=
  let bits := w % 2 ^ nbits
  wordBytes bits (max ((nbits + 7) / 8) (commandLength (wordBytes bits 9)))

/-- The command the decoder reads from an instruction numbered as spec/opcode_table.json numbers it. -/
def decodeTableWord (nbits w : Nat) : Option Instr :=
  match decode (tableBytes nbits w) with
  | .ok (i, _) => some i
  | .error _ => none

end Sys2Proof
end

