-- ==== Sys2Proof/Config.lean ====
section
/-! DEFINITION. What a build of the PPU fixes: the mirroring mode (00_scope.md R7, 10_state.md R37). The fixed capacities of
R6 are the same for every build and stand where they are used (Machine/Operands.lean). -/

namespace Sys2Proof

/-- `MIRRORING` (R7): how many name tables there are and along which axis they lie. The name `single` is the spec's (D19). -/
inductive Mirroring where
  | single
  | vertical
  | horizontal
  deriving DecidableEq, Repr, Inhabited

/-- The mode this build has. The spec leaves it OPEN (R7, U7) and says to assume no default (N18): the constant has no body, so
no proof can see which mode it is (assumption log 1). -/
opaque Config.mirroring : Mirroring

end Sys2Proof
end

