-- ==== Sys2Proof/Machine/State.lean ====
section
/-! DEFINITION. The machine's state, every piece the spec names (10_state.md R20 to R39), with what the command interface of
30_encoding.md and the framebuffer of 20_memory.md R50 add; why a step can stop; the state after reset (R39, R230). -/

namespace Sys2Proof.Machine

/-- The PPU has no fault: "no operand value of a defined command makes it fail" (60_exceptions.md R200), a framebuffer write out
of range is dropped (20_memory.md R55), and no other failure is named. So no step ever ends in a fault, and the type has no
constructor. -/
inductive Fault where
  deriving DecidableEq, Repr

/-- Why the machine gives a command no meaning (60_exceptions.md R201). A refused command has no effect on any state. The step
answers each of the five causes on the response channel with its code and goes on (assumption log 5). -/
inductive Refusal where
  /-- The instruction has no meaning in the model; raised by an arm of `exec` that is not written yet. Safe. -/
  | notModelled (mnemonic : String)
  /-- Code 0x01: the opcode byte is reserved (R78); raised by the step when decoding says so. Safe. -/
  | illegalOpcode
  /-- Code 0x02: a render is in progress; raised by RENDER (R183) and SET_CALLBACK (R173). Safe. -/
  | busy
  /-- Code 0x03: no raster event is pending; raised by CALLBACK_RETURN (R185). Safe. -/
  | noEvent
  /-- Code 0x04: the control register does not exist; raised by READ_CTRL (R186). Safe. -/
  | illegalOperand
  /-- Code 0x05: the stream ends inside a command (R75); raised by the step when decoding says so. Safe. -/
  | malformed
  deriving DecidableEq, Repr

/-- Sparse data by key, held in the one canonical
form of Machine/Ops.lean: keys strictly rising, no entry equal to what an unlisted key reads as. -/
abbrev Table (α : Type) := List (Nat × α)

/-- A sprite attribute record `SPR[i]` (10_state.md R29). -/
structure Sprite where
  /-- `X`, s16: left edge. -/
  x : Half
  /-- `Y`, s16: top edge. -/
  y : Half
  /-- `TILE`: pattern index, 0xFF = empty. -/
  tile : Byte
  /-- `PAL`: sprite palette selector. -/
  pal : BitVec 2
  /-- `ATTR`: stored whole, bits as 30_encoding.md R76. -/
  attr : Byte
  deriving DecidableEq, Repr

/-- The sprite every slot holds at reset (R39): empty, at (0, 0). -/
def Sprite.reset : Sprite := { x := 0, y := 0, tile := 0xFF, pal := 0, attr := 0 }

/-- A raster event as it stands on the event channel (30_encoding.md R81). -/
structure RasterEvent where
  x : Half
  y : Half
  deriving DecidableEq, Repr

/-- The points of the scan loop of 43_compositor.md R183 between which a step runs. A stalled scan resumes at the point it has
reached (R185, R207). `y` and `x` are the loop's own variables, which run up to and including the bound that ends the loop. -/
inductive ScanPoint where
  /-- The head of `for y in 0 .. RH-1`, about to take row `y` or to end the render. -/
  | rowHead (y : Nat)
  /-- Row mode, after the row's firing point: about to search the sprites of row SCAN_Y. -/
  | rowSearch
  /-- The head of `for x in 0 .. RW-1`, about to take column `x` of row SCAN_Y or to end the row. -/
  | pixelHead (x : Nat)
  /-- After the pixel's firing point: about to compose pixel (SCAN_X, SCAN_Y) and write it. -/
  | pixelBody
  deriving DecidableEq, Repr

/-- The state of the PPU and of the channels it shares with the host. Names and widths as 10_state.md gives them; the docstring
of each field names its rule. -/
structure State where
  /-- `MIRRORING` (00_scope.md R7): a build parameter, carried here so that every statement holds for every mode; no step
  changes it (10_state.md R37; assumption log 1). -/
  mirroring : Mirroring
  /-- `PT` (R23), key `ptKey t p y x`. -/
  pt : Table (BitVec 2)
  /-- `TILE` (R24), key `tileKey n ty tx`. -/
  tile : Table Byte
  /-- `BLOCK` (R25), key `blockKey n by bx`. -/
  block : Table (BitVec 2)
  /-- `BG_PAL` (R26), key `palKey q i`. -/
  bgPal : Table Byte
  /-- `BG_PT_SEL` (R27). -/
  bgPtSel : BitVec 1
  /-- `BG_COLOR` (R28). -/
  bgColor : Byte
  /-- `SPR` (R29), key: the slot. -/
  spr : Table Sprite
  /-- `SPR_PAL` (R30), key `palKey q i`. -/
  sprPal : Table Byte
  /-- `SPR_PT_SEL` (R31). -/
  sprPtSel : BitVec 1
  /-- `SCROLL_X` (R32), s16. -/
  scrollX : Half
  /-- `SCROLL_Y` (R32), s16. -/
  scrollY : Half
  /-- `CB_CTRL` (R33). -/
  cbCtrl : Byte
  /-- `BUSY` (R34). -/
  busy : Bool
  /-- `EVENT_PENDING` (R34). -/
  eventPending : Bool
  /-- `EVENT_X` (R34). -/
  eventX : Half
  /-- `EVENT_Y` (R34). -/
  eventY : Half
  /-- `RW` (R35). -/
  renderW : Half
  /-- `RH` (R35). -/
  renderH : Half
  /-- `FB_LEN` (R35). -/
  fbLen : Word
  /-- `SCAN_X` (R35). -/
  scanX : Half
  /-- `SCAN_Y` (R35). -/
  scanY : Half
  /-- `ROW_FRONT` (R35). -/
  rowFront : List Nat
  /-- `ROW_BACK` (R35). -/
  rowBack : List Nat
  /-- Where the scan of a render in progress stands (R183, R189); the model's own field (assumption log 8). -/
  scanPoint : ScanPoint
  /-- `FB` (20_memory.md R50): the host's framebuffer, by entry index. An entry not listed has the host's own value, which the
  model does not know (assumption log 7). -/
  fb : List Host.Cell
  /-- The command port (30_encoding.md R70, R71): bytes the host has sent and the PPU has not taken, oldest first. -/
  port : List Byte
  /-- The response channel (R80): the responses sent, oldest first. -/
  responses : List (List Byte)
  /-- The event channel (R81): the raster events sent, oldest first. -/
  events : List RasterEvent
  deriving DecidableEq, Repr

/-- The state after reset (10_state.md R39, 70_reset_and_hazards.md R230) of a build whose mirroring mode is `m`: "`MIRRORING` is
fixed before reset and no reset changes it". -/
def State.resetWith (m : Mirroring) : State where
  mirroring := m
  pt := []
  tile := []
  block := []
  bgPal := []
  bgPtSel := 0
  bgColor := 0
  spr := []
  sprPal := []
  sprPtSel := 0
  scrollX := 0
  scrollY := 0
  cbCtrl := 0
  busy := false
  eventPending := false
  eventX := 0
  eventY := 0
  renderW := 0
  renderH := 0
  fbLen := 0
  scanX := 0
  scanY := 0
  rowFront := []
  rowBack := []
  scanPoint := .rowHead 0
  fb := []
  port := []
  responses := []
  events := []

/-- The machine right after reset, of the build whose mode `Config.mirroring` is. -/
def State.reset : State := State.resetWith Config.mirroring

/-- What a command or a step ends in. -/
abbrev Result := Host.Outcome State Fault Refusal

end Sys2Proof.Machine
end

