-- ==== Sys2Proof/Machine/Flags.lean ====
section
/-! DEFINITION. Every flag the spec tests or composes (00_scope.md R12): the attribute bits of a sprite (30_encoding.md R76), the
bits of CB_CTRL (R77, 10_state.md R33) and the STATUS register (R36). The PPU has no condition flags (R21). -/

namespace Sys2Proof.Machine

/-- `has(attr, PRIORITY_BACK)`: bit 0. -/
def attrPriorityBack (attr : Byte) : Bool := attr.getLsbD 0

/-- `has(attr, FLIP_H)`: bit 1; no result depends on it (42_sprite.md R155). -/
def attrFlipH (attr : Byte) : Bool := attr.getLsbD 1

/-- `has(attr, FLIP_V)`: bit 2; no result depends on it (R155). -/
def attrFlipV (attr : Byte) : Bool := attr.getLsbD 2

/-- `CB_CTRL.VBLANK`: bit 0. -/
def ctrlVblank (ctrl : Byte) : Bool := ctrl.getLsbD 0

/-- `CB_CTRL.HBLANK`: bit 1. -/
def ctrlHblank (ctrl : Byte) : Bool := ctrl.getLsbD 1

/-- `CB_CTRL.ALWAYS`: bit 2. -/
def ctrlAlways (ctrl : Byte) : Bool := ctrl.getLsbD 2

/-- `CB_CTRL.ENABLE`: bit 7. -/
def ctrlEnable (ctrl : Byte) : Bool := ctrl.getLsbD 7

/-- What SET_CALLBACK stores (43_compositor.md R173): `ctrl AND 0x87`, the reserved bits 6:3 dropped. -/
def ctrlStored (ctrl : Byte) : Byte := ctrl &&& 0x87

/-- Pixel mode (R180): the mode depends on ALWAYS alone, not on ENABLE. -/
def State.pixelMode (s : State) : Bool := ctrlAlways s.cbCtrl

/-- Whether the start of row `y` is a firing point (R181): ALWAYS clear, ENABLE set, and HBLANK, or VBLANK and row 0. -/
def State.rowFires (s : State) (y : Nat) : Bool :=
  !ctrlAlways s.cbCtrl && ctrlEnable s.cbCtrl && (ctrlHblank s.cbCtrl || (ctrlVblank s.cbCtrl && y == 0))

/-- Whether every pixel is a firing point (R181): ALWAYS and ENABLE set. -/
def State.pixelFires (s : State) : Bool := ctrlAlways s.cbCtrl && ctrlEnable s.cbCtrl

/-- The value of STATUS (10_state.md R36, register 6): bit 0 BUSY, bit 1 EVENT_PENDING, bits 15:2 read 0. -/
def State.status (s : State) : Half :=
  (if s.busy then 1 else 0) ||| (if s.eventPending then 2 else 0)

/-- The command port holds (60_exceptions.md R203): a render is in progress and no event is pending. -/
def State.held (s : State) : Bool := s.busy && !s.eventPending

end Sys2Proof.Machine
end

