-- ==== Sys2Proof/Machine/Operands.lean ====
section
/-! DEFINITION. How an operand is used (20_memory.md R52, 30_encoding.md R79): each index operand is reduced modulo the capacity
of the dimension it indexes (00_scope.md R6), each stored field narrower than its operand is stored modulo its capacity
(10_state.md R38). Then the extents the mirroring mode gives (R7) and the keys of the tables. -/

namespace Sys2Proof.Machine

/-! ### Index operands -/

/-- Pattern table: mod 2. -/
def tableIndex (b : Byte) : Nat := b.toNat % 2

/-- Pattern: mod 256. -/
def patternIndex (b : Byte) : Nat := b.toNat % 256

/-- A coordinate inside a pattern: mod 8. -/
def pixelIndex (b : Byte) : Nat := b.toNat % 8

/-- Tile column: mod 32. -/
def tileColumn (b : Byte) : Nat := b.toNat % 32

/-- Tile row: mod 30. -/
def tileRow (b : Byte) : Nat := b.toNat % 30

/-- Block column of a tile column (41_background.md R113): `(x mod 32) div 2`. -/
def blockColumn (b : Byte) : Nat := tileColumn b / 2

/-- Block row of a tile row (R113): `(y mod 30) div 2`. -/
def blockRow (b : Byte) : Nat := tileRow b / 2

/-- Palette: mod 4. -/
def paletteIndex (b : Byte) : Nat := b.toNat % 4

/-- Entry of a palette: mod 4. -/
def entryIndex (b : Byte) : Nat := b.toNat % 4

/-- Sprite slot: mod 64. -/
def spriteIndex (b : Byte) : Nat := b.toNat % 64

/-! ### Stored fields -/

/-- A pattern pixel from a payload byte: mod 4 (40_pattern.md R101, D5). -/
def pixelValue (b : Byte) : BitVec 2 := BitVec.ofNat 2 (b.toNat % 4)

/-- A palette selector: mod 4 (R38). -/
def paletteSelector (b : Byte) : BitVec 2 := BitVec.ofNat 2 (b.toNat % 4)

/-- A pattern-table selector: mod 2 (R38). -/
def tableSelector (b : Byte) : BitVec 1 := BitVec.ofNat 1 (b.toNat % 2)

/-! ### The mirroring mode's extents (00_scope.md R7) -/

/-- `NT_COUNT`: 1 if SINGLE, else 2. -/
def ntCount : Mirroring → Nat
  | .single => 1
  | .vertical => 2
  | .horizontal => 2

/-- `EW`: 256 × (2 if VERTICAL else 1). -/
def extentW : Mirroring → Nat
  | .single => 256
  | .vertical => 512
  | .horizontal => 256

/-- `EH`: 240 × (2 if HORIZONTAL else 1). -/
def extentH : Mirroring → Nat
  | .single => 240
  | .vertical => 240
  | .horizontal => 480

/-- Name table: mod `NT_COUNT`. -/
def nameTableIndex (m : Mirroring) (b : Byte) : Nat := b.toNat % ntCount m

/-! ### Keys: one number for each index tuple (20_memory.md R50) -/

/-- Key of `PT[t][p][y][x]`. -/
def ptKey (t p y x : Nat) : Nat := ((t * 256 + p) * 8 + y) * 8 + x

/-- Key of `TILE[n][ty][tx]`. -/
def tileKey (n ty tx : Nat) : Nat := (n * 30 + ty) * 32 + tx

/-- Key of `BLOCK[n][by][bx]`. -/
def blockKey (n by' bx : Nat) : Nat := (n * 15 + by') * 16 + bx

/-- Key of `BG_PAL[q][i]` and `SPR_PAL[q][i]`. -/
def palKey (q i : Nat) : Nat := q * 4 + i

end Sys2Proof.Machine
end

