-- ==== Sys2Proof/Machine/Ops.lean ====
section
/-! DEFINITION. The named operations over the tables, the framebuffer and the channels: reading and writing a sparse table in its
canonical form, each of the PPU's tables through its own accessor, responses (30_encoding.md R80), and the raster event, which is
this machine's exception: taking it (43_compositor.md R184) and returning from it (R185). -/

namespace Sys2Proof.Machine

/-! ### Sparse memories -/

/-- The value listed at key `k`. -/
def Memory.find? {α : Type} : Table α → Nat → Option α
  | [], _ => none
  | (a, v) :: m, k => if a = k then some v else Memory.find? m k

/-- List value `v` at key `k`, keeping the keys in rising order. -/
def Memory.put {α : Type} : Table α → Nat → α → Table α
  | [], k, v => [(k, v)]
  | (a, w) :: m, k, v =>
    if k < a then (k, v) :: (a, w) :: m
    else if k = a then (k, v) :: m
    else (a, w) :: Memory.put m k v

/-- List nothing at key `k`. -/
def Memory.del {α : Type} (m : Table α) (k : Nat) : Table α := m.filter fun c => c.1 != k

/-- The value at key `k` of a table whose unlisted keys read as `z`. -/
def Memory.get {α : Type} (z : α) (m : Table α) (k : Nat) : α := (Memory.find? m k).getD z

/-- Write `v` at key `k` of a table whose unlisted keys read as `z`: writing `z` removes the entry. -/
def Memory.set {α : Type} [DecidableEq α] (z : α) (m : Table α) (k : Nat) (v : α) : Table α :=
  if v = z then Memory.del m k else Memory.put m k v

/-- The canonical form: keys strictly rising, and no entry equal to what an unlisted key reads as (`unlisted`: `some z` for a
table whose unlisted keys read as `z`, `none` for the framebuffer). -/
abbrev Memory.wf {α : Type} [DecidableEq α] (unlisted : Option α) (m : Table α) : Prop :=
  (m.map Prod.fst).Pairwise (· < ·) ∧ ∀ c ∈ m, some c.2 ≠ unlisted

/-! ### What an unlisted key reads as: the reset contents (10_state.md R39), and for the framebuffer nothing (log 7) -/

/-- `PT` and `BLOCK` entries read 0 at reset. -/
def unlistedSelector : BitVec 2 := 0

/-- `TILE`, `BG_PAL` and `SPR_PAL` entries read 0 at reset. -/
def unlistedByte : Byte := 0

/-- A sprite slot is empty at (0, 0) at reset. -/
def unlistedSprite : Sprite := Sprite.reset

/-! ### The PPU's tables -/

/-- `PT[t][p][y][x]`. -/
def State.ptAt (s : State) (t p y x : Nat) : BitVec 2 := Memory.get unlistedSelector s.pt (ptKey t p y x)

/-- `TILE[n][ty][tx]`. -/
def State.tileAt (s : State) (n ty tx : Nat) : Byte := Memory.get unlistedByte s.tile (tileKey n ty tx)

/-- `BLOCK[n][by][bx]`. -/
def State.blockAt (s : State) (n by' bx : Nat) : BitVec 2 := Memory.get unlistedSelector s.block (blockKey n by' bx)

/-- `BG_PAL[q][i]`. -/
def State.bgPalAt (s : State) (q i : Nat) : Byte := Memory.get unlistedByte s.bgPal (palKey q i)

/-- `SPR_PAL[q][i]`. -/
def State.sprPalAt (s : State) (q i : Nat) : Byte := Memory.get unlistedByte s.sprPal (palKey q i)

/-- `SPR[i]`. -/
def State.sprAt (s : State) (i : Nat) : Sprite := Memory.get unlistedSprite s.spr i

/-- `TILE[n][ty][tx] <- v`. -/
def State.writeTile (s : State) (n ty tx : Nat) (v : Byte) : State :=
  { s with tile := Memory.set unlistedByte s.tile (tileKey n ty tx) v }

/-- `BLOCK[n][by][bx] <- v`. -/
def State.writeBlock (s : State) (n by' bx : Nat) (v : BitVec 2) : State :=
  { s with block := Memory.set unlistedSelector s.block (blockKey n by' bx) v }

/-- `SPR[i] <- v`. -/
def State.writeSprite (s : State) (i : Nat) (v : Sprite) : State :=
  { s with spr := Memory.set unlistedSprite s.spr i v }

/-- `PalWriteOne(P, pal, slot, color)` (41_background.md R114), on either bank. -/
def palWriteOne (m : Table Byte) (pal slot : Nat) (color : Byte) : Table Byte :=
  Memory.set unlistedByte m (palKey (pal % 4) (slot % 4)) color

/-- The writes of `PalWriteBulk` from color number `k` on (R114), in order: color `k` goes to entry `k mod 4` of palette
`(pal + k div 4) mod 4`, a later write winning. -/
def palWriteFrom (m : Table Byte) (pal k : Nat) : List Byte → Table Byte
  | [] => m
  | c :: cs => palWriteFrom (palWriteOne m (pal + k / 4) (k % 4) c) pal (k + 1) cs

/-- `PalWriteBulk(P, pal, colors)` (R114). -/
def palWriteBulk (m : Table Byte) (pal : Nat) (colors : List Byte) : Table Byte := palWriteFrom m pal 0 colors

/-- `BG_PAL` replaced by what a palette write made of it. -/
def State.setBgPal (s : State) (m : Table Byte) : State := { s with bgPal := m }

/-- `SPR_PAL` replaced by what a palette write made of it. -/
def State.setSprPal (s : State) (m : Table Byte) : State := { s with sprPal := m }

/-- The writes of WRITE_PATTERN from payload byte number `k` on (40_pattern.md R101), in order: byte `k` goes to pattern
`(start + k div 64) mod 256`, at offset `k mod 64` in row-major order. -/
def patternWriteFrom (m : Table (BitVec 2)) (t start k : Nat) : List Byte → Table (BitVec 2)
  | [] => m
  | b :: bs =>
    let o := k % 64
    patternWriteFrom
      (Memory.set unlistedSelector m (ptKey t ((start + k / 64) % 256) (o / 8) (o % 8)) (pixelValue b)) t start (k + 1) bs

/-- `PT` after WRITE_PATTERN. -/
def State.writePatterns (s : State) (t start : Nat) (pixels : List Byte) : State :=
  { s with pt := patternWriteFrom s.pt t start 0 pixels }

/-! ### The framebuffer (20_memory.md R55) -/

/-- `FB[i]`, if the PPU has written it or the state lists the host's value. -/
def State.fbAt (s : State) (i : Nat) : Option Byte := Memory.find? s.fb i

/-- `FBWrite(i, v)` (R55): an index at or past FB_LEN is dropped. -/
def State.fbWrite (s : State) (i : Nat) (v : Byte) : State :=
  if i < s.fbLen.toNat then { s with fb := Memory.put s.fb i v } else s

/-! ### Responses (30_encoding.md R80) -/

/-- Send one response: a status byte and the results. -/
def State.respond (s : State) (r : List Byte) : State := { s with responses := s.responses ++ [r] }

/-- `respond(OK, results)`: status 0x00. -/
def State.respondOk (s : State) (results : List Byte) : State := s.respond (0x00 :: results)

/-- The cause code of a refusal (60_exceptions.md R201); none for an instruction the model gives no meaning. -/
def Refusal.code? : Refusal → Option Byte
  | .illegalOpcode => some 0x01
  | .busy => some 0x02
  | .noEvent => some 0x03
  | .illegalOperand => some 0x04
  | .malformed => some 0x05
  | _ => none

/-- The refusal a decoding error is reported as (R202). -/
def refusalOfDecode : DecodeError → Refusal
  | .illegalOpcode => .illegalOpcode
  | .malformed => .malformed

/-! ### The raster event -/

/-- The bytes of a raster event on the event channel (30_encoding.md R81): x then y, u16 each. -/
def RasterEvent.bytes (e : RasterEvent) : List Byte := bytes16 e.x ++ bytes16 e.y

/-- `fire(x, y)` (43_compositor.md R184, 60_exceptions.md R206): the scan position is saved into EVENT_X and EVENT_Y,
EVENT_PENDING is set, which stalls the scan, and the event is sent. Nothing else changes. -/
def State.fire (s : State) (x y : Half) : State :=
  { s with eventX := x, eventY := y, eventPending := true, events := s.events ++ [{ x := x, y := y }] }

/-- The return from a raster event (R185, R207): EVENT_PENDING is cleared and nothing is restored. -/
def State.returnFromEvent (s : State) : State := { s with eventPending := false }

end Sys2Proof.Machine
end

