-- ==== Sys2Proof/Machine/Pattern.lean ====
section
/-! DEFINITION. Pattern storage (40_pattern.md): the pixel read primitive and the commands WRITE_PATTERN and
READ_PATTERN_PIXEL. -/

namespace Sys2Proof.Machine

/-- `PT[t][p].px(x, y)` (R100): table mod 2, pattern mod 256, coordinates mod 8 for any integers. -/
def State.px (s : State) (t p : Nat) (x y : Int) : BitVec 2 :=
  s.ptAt (t % 2) (p % 256) (y % 8).toNat (x % 8).toNat

/-- WRITE_PATTERN (R101). -/
def execWritePattern (table start : Byte) (pixels : List Byte) (s : State) : Result :=
  .next ((s.writePatterns (tableIndex table) start.toNat pixels).respondOk [])

/-- READ_PATTERN_PIXEL (R102). -/
def execReadPatternPixel (table pattern x y : Byte) (s : State) : Result :=
  .next (s.respondOk [(s.px table.toNat pattern.toNat x.toNat y.toNat).setWidth 8])

end Sys2Proof.Machine
end

