-- ==== Sys2Proof/Machine/Background.lean ====
section
/-! DEFINITION. The background plane (41_background.md): the tile addresser and the background's commands. -/

namespace Sys2Proof.Machine

/-! ### The tile addresser -/

/-- `NtSelect(sx, sy)` (R110): name table and local coordinate. -/
def ntSelect (m : Mirroring) (sx sy : Nat) : Nat × Nat × Nat :=
  match m with
  | .single => (0, sx, sy)
  | .vertical => (sx / 256, sx % 256, sy)
  | .horizontal => (sy / 240, sx, sy % 240)

/-- `BgLookup(sx, sy)` (R111): pattern index, palette selector and pattern pixel value. -/
def State.bgLookup (s : State) (sx sy : Nat) : Byte × BitVec 2 × BitVec 2 :=
  let (n, lx, ly) := ntSelect s.mirroring sx sy
  let p := s.tileAt n (ly / 8) (lx / 8)
  let q := s.blockAt n (ly / 16) (lx / 16)
  let c := s.px s.bgPtSel.toNat p.toNat ((lx % 8 : Nat) : Int) ((ly % 8 : Nat) : Int)
  (p, q, c)

/-! ### Commands -/

/-- SET_TILE (R112). -/
def execSetTile (nt x y pattern : Byte) (s : State) : Result :=
  .next ((s.writeTile (nameTableIndex s.mirroring nt) (tileRow y) (tileColumn x) pattern).respondOk [])

/-- SET_TILE_PALETTE (R113). -/
def execSetTilePalette (nt x y pal : Byte) (s : State) : Result :=
  .next ((s.writeBlock (nameTableIndex s.mirroring nt) (blockRow y) (blockColumn x) (paletteSelector pal)).respondOk [])

/-- SET_BG_PALETTE_COLOR (R115). -/
def execSetBgPaletteColor (pal slot color : Byte) (s : State) : Result :=
  .next ((s.setBgPal (palWriteOne s.bgPal pal.toNat slot.toNat color)).respondOk [])

/-- SET_BG_PALETTE (R116). -/
def execSetBgPalette (pal c0 c1 c2 c3 : Byte) (s : State) : Result :=
  .next ((s.setBgPal (palWriteBulk s.bgPal pal.toNat [c0, c1, c2, c3])).respondOk [])

/-- SET_BG_PALETTE_BULK (R117). -/
def execSetBgPaletteBulk (pal : Byte) (colors : List Byte) (s : State) : Result :=
  .next ((s.setBgPal (palWriteBulk s.bgPal pal.toNat colors)).respondOk [])

/-- SET_BG_PATTERN_TABLE (R119). -/
def execSetBgPatternTable (index : Byte) (s : State) : Result :=
  .next ({ s with bgPtSel := tableSelector index }.respondOk [])

/-- SET_BG_COLOR (R120). -/
def execSetBgColor (color : Byte) (s : State) : Result :=
  .next ({ s with bgColor := color }.respondOk [])

/-- READ_BG_PALETTE (R118). -/
def execReadBgPalette (pal slot : Byte) (s : State) : Result :=
  .next (s.respondOk [s.bgPalAt (paletteIndex pal) (entryIndex slot)])

/-- BG_GET (R121): the coordinates reduced modulo the plane's extent. -/
def execBgGet (x y : Half) (s : State) : Result :=
  let (p, q, _) := s.bgLookup (x.toNat % extentW s.mirroring) (y.toNat % extentH s.mirroring)
  .next (s.respondOk [p, q.setWidth 8])

end Sys2Proof.Machine
end

