-- ==== Sys2Proof/Machine/SpritePlane.lean ====
section
/-! DEFINITION. The sprite plane (42_sprite.md): hit predicates, the scanline sprite engine and the sprite commands. -/

namespace Sys2Proof.Machine

/-! ### Hit predicates (R150), on mathematical integers -/

/-- `live(s)`: the slot is not empty. -/
def Sprite.live (p : Sprite) : Bool := p.tile != 0xFF

/-- `hitX(s, x)`: `X <= x < X + 8`. -/
def Sprite.hitX (p : Sprite) (x : Nat) : Bool := decide (p.x.toInt ≤ (x : Int) ∧ (x : Int) < p.x.toInt + 8)

/-- `hitY(s, y)`: `Y <= y < Y + 8`. -/
def Sprite.hitY (p : Sprite) (y : Nat) : Bool := decide (p.y.toInt ≤ (y : Int) ∧ (y : Int) < p.y.toInt + 8)

/-- `hitPix(s, x, y)`. -/
def Sprite.hitPix (p : Sprite) (x y : Nat) : Bool := p.live && p.hitX x && p.hitY y

/-- `hitRow(s, y)`. -/
def Sprite.hitRow (p : Sprite) (y : Nat) : Bool := p.live && p.hitY y

/-! ### The search (R151) -/

/-- The rest of the search: the slots still to look at, and the front and back buckets so far. -/
def State.searchFrom (s : State) (hit : Sprite → Bool) : List Nat → List Nat → List Nat → List Nat × List Nat
  | [], front, back => (front, back)
  | i :: slots, front, back =>
    if front.length + back.length = 8 then (front, back)
    else if hit (s.sprAt i) then
      if attrPriorityBack (s.sprAt i).attr then s.searchFrom hit slots front (back ++ [i])
      else s.searchFrom hit slots (front ++ [i]) back
    else s.searchFrom hit slots front back

/-- `Search(hit)` (R151): slots 0 to 63 in order, stopping at 8 hits. -/
def State.search (s : State) (hit : Sprite → Bool) : List Nat × List Nat :=
  s.searchFrom hit (List.range 64) [] []

/-- `FindSpritesPixel(x, y)` (R152). -/
def State.findSpritesPixel (s : State) (x y : Nat) : List Nat × List Nat := s.search fun p => p.hitPix x y

/-- `FindSpritesRow(y)` (R153). -/
def State.findSpritesRow (s : State) (y : Nat) : List Nat × List Nat := s.search fun p => p.hitRow y

/-- The results of FIND_SPRITES and FIND_SPRITES_ROW (30_encoding.md R80): each bucket with its length before it. -/
def searchResults (found : List Nat × List Nat) : List Byte :=
  BitVec.ofNat 8 found.1.length :: found.1.map (BitVec.ofNat 8) ++
    BitVec.ofNat 8 found.2.length :: found.2.map (BitVec.ofNat 8)

/-- `SprPixel(i, x, y)` (R154): no flip (R155). -/
def State.sprPixel (s : State) (i x y : Nat) : BitVec 2 :=
  s.px s.sprPtSel.toNat (s.sprAt i).tile.toNat ((x : Int) - (s.sprAt i).x.toInt) ((y : Int) - (s.sprAt i).y.toInt)

/-! ### Commands -/

/-- SET_SPRITE (R140). -/
def execSetSprite (slot : Byte) (x y : Half) (tile pal attr : Byte) (s : State) : Result :=
  .next ((s.writeSprite (spriteIndex slot)
    { x := x, y := y, tile := tile, pal := paletteSelector pal, attr := attr }).respondOk [])

/-- SET_SPRITE_POSITION (R141): the other fields of the slot are kept. -/
def execSetSpritePosition (slot : Byte) (x y : Half) (s : State) : Result :=
  .next ((s.writeSprite (spriteIndex slot) { s.sprAt (spriteIndex slot) with x := x, y := y }).respondOk [])

/-- SET_SPRITE_PALETTE_COLOR (R142). -/
def execSetSpritePaletteColor (pal slot color : Byte) (s : State) : Result :=
  .next ((s.setSprPal (palWriteOne s.sprPal pal.toNat slot.toNat color)).respondOk [])

/-- SET_SPRITE_PALETTE (R143). -/
def execSetSpritePalette (pal c0 c1 c2 c3 : Byte) (s : State) : Result :=
  .next ((s.setSprPal (palWriteBulk s.sprPal pal.toNat [c0, c1, c2, c3])).respondOk [])

/-- SET_SPRITE_PALETTE_BULK (R144). -/
def execSetSpritePaletteBulk (pal : Byte) (colors : List Byte) (s : State) : Result :=
  .next ((s.setSprPal (palWriteBulk s.sprPal pal.toNat colors)).respondOk [])

/-- SET_SPRITE_PATTERN_TABLE (R146). -/
def execSetSpritePatternTable (index : Byte) (s : State) : Result :=
  .next ({ s with sprPtSel := tableSelector index }.respondOk [])

/-- READ_SPRITE_PALETTE (R145). -/
def execReadSpritePalette (pal slot : Byte) (s : State) : Result :=
  .next (s.respondOk [s.sprPalAt (paletteIndex pal) (entryIndex slot)])

/-- READ_SPRITE (R147). -/
def execReadSprite (slot : Byte) (s : State) : Result :=
  let p := s.sprAt (spriteIndex slot)
  .next (s.respondOk (bytes16 p.x ++ bytes16 p.y ++ [p.tile, p.pal.setWidth 8, p.attr]))

/-- FIND_SPRITES (R152). -/
def execFindSprites (x y : Half) (s : State) : Result :=
  .next (s.respondOk (searchResults (s.findSpritesPixel x.toNat y.toNat)))

/-- FIND_SPRITES_ROW (R153). -/
def execFindSpritesRow (y : Half) (s : State) : Result :=
  .next (s.respondOk (searchResults (s.findSpritesRow y.toNat)))

end Sys2Proof.Machine
end

