-- ==== Sys2Proof/Machine/Compositor.lean ====
section
/-! DEFINITION. The compositor, the scroll, the raster-callback arbiter's commands and the control registers
(43_compositor.md). The scan itself is Machine/Scan.lean. -/

namespace Sys2Proof.Machine

/-! ### Scroll and composition -/

/-- `ScrollMap(x, y)` (R171): the Euclidean remainder of the scrolled coordinate. -/
def State.scrollMap (s : State) (x y : Nat) : Nat × Nat :=
  ((((x : Int) + s.scrollX.toInt) % (extentW s.mirroring : Int)).toNat,
   (((y : Int) + s.scrollY.toInt) % (extentH s.mirroring : Int)).toNat)

/-- The color of the first sprite of the list, in order, whose pixel at `(x, y)` is opaque (R172, steps 1 and 3). -/
def State.firstOpaque (s : State) (x y : Nat) : List Nat → Option Byte
  | [] => none
  | i :: is =>
    let c := s.sprPixel i x y
    if c = 0 then s.firstOpaque x y is else some (s.sprPalAt (s.sprAt i).pal.toNat c.toNat)

/-- The background's color at screen pixel `(x, y)`, if it is opaque there (R172, step 2). -/
def State.bgOpaque (s : State) (x y : Nat) : Option Byte :=
  let (sx, sy) := s.scrollMap x y
  let (_, q, c) := s.bgLookup sx sy
  if c = 0 then none else some (s.bgPalAt q.toNat c.toNat)

/-- `Composite(x, y, F, B)` (R172): front sprites, background, back sprites, fallback. -/
def State.composite (s : State) (x y : Nat) (front back : List Nat) : Byte :=
  match s.firstOpaque x y front with
  | some c => c
  | none =>
    match s.bgOpaque x y with
    | some c => c
    | none =>
      match s.firstOpaque x y back with
      | some c => c
      | none => s.bgColor

/-! ### Control registers -/

/-- The value of control register `reg` (10_state.md R36), zero-extended to 16 bits; none for 9 to 255, which do not exist. -/
def State.ctrlRegister (s : State) (reg : Nat) : Option Half :=
  match reg with
  | 0 => some (s.bgPtSel.setWidth 16)
  | 1 => some (s.sprPtSel.setWidth 16)
  | 2 => some (s.bgColor.setWidth 16)
  | 3 => some s.scrollX
  | 4 => some s.scrollY
  | 5 => some (s.cbCtrl.setWidth 16)
  | 6 => some s.status
  | 7 => some s.eventX
  | 8 => some s.eventY
  | _ => none

/-! ### Commands -/

/-- SET_SCROLL (R170). -/
def execSetScroll (x y : Half) (s : State) : Result :=
  .next ({ s with scrollX := x, scrollY := y }.respondOk [])

/-- SET_CALLBACK (R173): refused during a render. -/
def execSetCallback (ctrl : Byte) (s : State) : Result :=
  if s.busy then .refused .busy
  else .next ({ s with cbCtrl := ctrlStored ctrl }.respondOk [])

/-- RENDER (R183): refused during a render; else the render starts, the port holds, and the scan of Machine/Scan.lean runs step
by step. The response is sent when the render ends. -/
def execRender (w h : Half) (len : Word) (s : State) : Result :=
  if s.busy then .refused .busy
  else .next { s with busy := true, renderW := w, renderH := h, fbLen := len, scanPoint := .rowHead 0 }

/-- CALLBACK_RETURN (R185): refused when no event is pending. -/
def execCallbackReturn (s : State) : Result :=
  if s.eventPending then .next (s.returnFromEvent.respondOk []) else .refused .noEvent

/-- READ_CTRL (R186): refused for a register that does not exist. -/
def execReadCtrl (reg : Byte) (s : State) : Result :=
  match s.ctrlRegister reg.toNat with
  | some v => .next (s.respondOk (bytes16 v))
  | none => .refused .illegalOperand

end Sys2Proof.Machine
end

