-- ==== Sys2Proof/Machine/Dispatch.lean ====
section
/-! DEFINITION. The one match over the command set: each command's meaning by its full name (30_encoding.md R74). -/

namespace Sys2Proof.Machine

def exec (i : Instr) (s : State) : Host.Outcome State Fault Refusal :=
  match i with
  | .writePattern table start pixels => Sys2Proof.Machine.execWritePattern table start pixels s
  | .readPatternPixel table pattern x y => Sys2Proof.Machine.execReadPatternPixel table pattern x y s
  | .setTile nt x y pattern => Sys2Proof.Machine.execSetTile nt x y pattern s
  | .setTilePalette nt x y pal => Sys2Proof.Machine.execSetTilePalette nt x y pal s
  | .setBgPaletteColor pal slot color => Sys2Proof.Machine.execSetBgPaletteColor pal slot color s
  | .setBgPalette pal c0 c1 c2 c3 => Sys2Proof.Machine.execSetBgPalette pal c0 c1 c2 c3 s
  | .setBgPaletteBulk pal colors => Sys2Proof.Machine.execSetBgPaletteBulk pal colors s
  | .setBgPatternTable index => Sys2Proof.Machine.execSetBgPatternTable index s
  | .setBgColor color => Sys2Proof.Machine.execSetBgColor color s
  | .readBgPalette pal slot => Sys2Proof.Machine.execReadBgPalette pal slot s
  | .bgGet x y => Sys2Proof.Machine.execBgGet x y s
  | .setSprite slot x y tile pal attr => Sys2Proof.Machine.execSetSprite slot x y tile pal attr s
  | .setSpritePosition slot x y => Sys2Proof.Machine.execSetSpritePosition slot x y s
  | .setSpritePaletteColor pal slot color => Sys2Proof.Machine.execSetSpritePaletteColor pal slot color s
  | .setSpritePalette pal c0 c1 c2 c3 => Sys2Proof.Machine.execSetSpritePalette pal c0 c1 c2 c3 s
  | .setSpritePaletteBulk pal colors => Sys2Proof.Machine.execSetSpritePaletteBulk pal colors s
  | .setSpritePatternTable index => Sys2Proof.Machine.execSetSpritePatternTable index s
  | .readSpritePalette pal slot => Sys2Proof.Machine.execReadSpritePalette pal slot s
  | .readSprite slot => Sys2Proof.Machine.execReadSprite slot s
  | .findSprites x y => Sys2Proof.Machine.execFindSprites x y s
  | .findSpritesRow y => Sys2Proof.Machine.execFindSpritesRow y s
  | .setScroll x y => Sys2Proof.Machine.execSetScroll x y s
  | .setCallback ctrl => Sys2Proof.Machine.execSetCallback ctrl s
  | .render w h len => Sys2Proof.Machine.execRender w h len s
  | .callbackReturn => Sys2Proof.Machine.execCallbackReturn s
  | .readCtrl reg => Sys2Proof.Machine.execReadCtrl reg s

end Sys2Proof.Machine
end

