-- ==== Sys2Proof/Machine/Scan.lean ====
section
/-! DEFINITION. The frame scan of RENDER (43_compositor.md R183) as the PPU's own steps: each step carries the loop from one of
its points to the next, so that a raster event can stall it between them and the host's commands run in between (R184, R188).
The order at a firing point is R182: event, then sprite search, then pixels. -/

namespace Sys2Proof.Machine

/-- The head of row `y` of the loop: SCAN_Y is set; in row mode SCAN_X is set and the row's event, if it fires, is raised before
the row's search. -/
def State.beginRow (s : State) (y : Nat) : State :=
  let r := { s with scanY := BitVec.ofNat 16 y }
  if s.pixelMode then { r with scanPoint := .pixelHead 0 }
  else
    let r := { r with scanX := 0, scanPoint := .rowSearch }
    if s.rowFires y then r.fire 0 (BitVec.ofNat 16 y) else r

/-- Row mode, after the row's firing point: `(ROW_FRONT, ROW_BACK) <- FindSpritesRow(y)`. -/
def State.searchRow (s : State) : State :=
  { s with
    rowFront := (s.findSpritesRow s.scanY.toNat).1
    rowBack := (s.findSpritesRow s.scanY.toNat).2
    scanPoint := .pixelHead 0 }

/-- The head of column `x` of the loop: SCAN_X is set; in pixel mode the pixel's event is raised before its search. -/
def State.beginPixel (s : State) (x : Nat) : State :=
  let r := { s with scanX := BitVec.ofNat 16 x, scanPoint := .pixelBody }
  if s.pixelFires then r.fire (BitVec.ofNat 16 x) s.scanY else r

/-- The sprite lists of pixel `(x, y)` (R180): the per-pixel search in pixel mode, else the members of the row's set that hit
column `x`. -/
def State.pixelSprites (s : State) (x y : Nat) : List Nat × List Nat :=
  if s.pixelMode then s.findSpritesPixel x y
  else (s.rowFront.filter fun i => (s.sprAt i).hitX x, s.rowBack.filter fun i => (s.sprAt i).hitX x)

/-- The color of pixel `(x, y)` as the state stands (20_memory.md R59). -/
def State.pixelColor (s : State) (x y : Nat) : Byte :=
  s.composite x y (s.pixelSprites x y).1 (s.pixelSprites x y).2

/-- Compose pixel (SCAN_X, SCAN_Y) and write it to entry `y·RW + x`; the loop goes on with the next column. -/
def State.drawPixel (s : State) : State :=
  { s.fbWrite (s.scanY.toNat * s.renderW.toNat + s.scanX.toNat) (s.pixelColor s.scanX.toNat s.scanY.toNat) with
    scanPoint := .pixelHead (s.scanX.toNat + 1) }

/-- The end of the render: BUSY is cleared and RENDER's response, success 0x01, is sent. -/
def State.endRender (s : State) : State :=
  { s with busy := false, scanPoint := .rowHead 0 }.respondOk [0x01]

/-- One step of the scan. -/
def State.scanStep (s : State) : State :=
  match s.scanPoint with
  | .rowHead y => if y < s.renderH.toNat then s.beginRow y else s.endRender
  | .rowSearch => s.searchRow
  | .pixelHead x =>
    if x < s.renderW.toNat then s.beginPixel x else { s with scanPoint := .rowHead (s.scanY.toNat + 1) }
  | .pixelBody => s.drawPixel

end Sys2Proof.Machine
end

