-- ==== Sys2Proof/Machine/Port.lean ====
section
/-! DEFINITION. The command port (30_encoding.md R70, R71; 60_exceptions.md R201, R202): taking the next command, performing it,
and answering a refusal with its cause code. -/

namespace Sys2Proof.Machine

/-- What a command's outcome becomes on the response channel: a refused command has no effect on any state and its response is
the cause code alone (R80, R201); `taken` is the state with the command's bytes taken from the port. -/
def answer (taken : State) : Result → Result
  | .next t => .next t
  | .fault f => .fault f
  | .refused r =>
    match r.code? with
    | some c => .next (taken.respond [c])
    | none => .refused r

/-- The port's bytes begin no command (R78, R75): the cause code is the response, and the decoder stops, so what is left of the
stream is dropped (assumption log 4). -/
def rejectStream (s : State) (e : DecodeError) : Result :=
  answer { s with port := [] } (.refused (refusalOfDecode e))

/-- What is done with the port's bytes as the decoder reads them: the command at their front is taken and performed, whole
(20_memory.md R56), or the stream is rejected. -/
def serve (s : State) : Decoded → Result
  | .ok (i, rest) => answer { s with port := rest } (exec i { s with port := rest })
  | .error e => rejectStream s e

/-- One step of an idle PPU, or of one stalled on an event: nothing while the port is empty (R215), else its front is served. -/
def portStep (s : State) : Result :=
  match s.port with
  | [] => .next s
  | _ :: _ => serve s (decode s.port)

/-- One step of the machine: while the port holds (R203) the scan goes on, else the port is served. -/
def machineStep (s : State) : Result :=
  if s.held then .next s.scanStep else portStep s

/-- The state whose next step performs the command that `nbits` bits of `w` begin (numbered as spec/opcode_table.json numbers
them): its bytes are all the port holds, and if a render is in progress an event is pending, which lifts the hold (R203). -/
def placeCommand (s : State) (nbits w : Nat) : State :=
  { s with port := tableBytes nbits w, eventPending := s.eventPending || s.busy }

end Sys2Proof.Machine
end

