-- ==== Sys2Proof/Machine/Step.lean ====
section
/-! DEFINITION. One step of the machine, and where the next command is put. -/

namespace Sys2Proof.Machine

/-- One step (Machine/Port.lean: `machineStep`). -/
def step (s : State) : Host.Outcome State Fault Refusal := machineStep s

/-- The state with a command placed where `step` takes its next one (Machine/Port.lean: `placeCommand`). -/
def State.withFetchWord (s : State) (nbits w : Nat) : State := placeCommand s nbits w

end Sys2Proof.Machine
end

