-- ==== Sys2Proof/Safety.lean ====
section
/-! DEFINITION. What counts as a sound state of the machine, in the terms the statements use: the invariant every step keeps. -/

namespace Sys2Proof.Machine

/-- Every listed key is an index of the table. -/
abbrev KeysBelow {α : Type} (bound : Nat) (m : Table α) : Prop := ∀ c ∈ m, c.1 < bound

/-- Every table and the framebuffer is in canonical form and lists only indices the spec gives it (20_memory.md R50): 32,768
pattern pixels, 960 tiles and 240 blocks a name table, 16 entries a palette bank, 64 sprites, and framebuffer entries numbered
below 2^32. -/
structure State.TablesCanonical (s : State) : Prop where
  pt : Memory.wf (some unlistedSelector) s.pt ∧ KeysBelow 32768 s.pt
  tile : Memory.wf (some unlistedByte) s.tile ∧ KeysBelow (960 * ntCount s.mirroring) s.tile
  block : Memory.wf (some unlistedSelector) s.block ∧ KeysBelow (240 * ntCount s.mirroring) s.block
  bgPal : Memory.wf (some unlistedByte) s.bgPal ∧ KeysBelow 16 s.bgPal
  spr : Memory.wf (some unlistedSprite) s.spr ∧ KeysBelow 64 s.spr
  sprPal : Memory.wf (some unlistedByte) s.sprPal ∧ KeysBelow 16 s.sprPal
  fb : Memory.wf none s.fb ∧ KeysBelow 4294967296 s.fb

/-- The reserved bits 6:3 of CB_CTRL are clear (10_state.md R33, R38). -/
def State.ReservedClear (s : State) : Prop := s.cbCtrl &&& 0x78 = 0

/-- The row-mode sprite set has at most 8 members, each a slot number (10_state.md R35). -/
def State.RowSetLegal (s : State) : Prop :=
  s.rowFront.length + s.rowBack.length ≤ 8 ∧ ∀ i ∈ s.rowFront ++ s.rowBack, i < 64

/-- While a render is in progress, the scan stands inside the frame (10_state.md R22, R35), and at a point its mode has. -/
def State.ScanInFrame (s : State) : Prop :=
  s.busy = true →
    match s.scanPoint with
    | .rowHead y => y ≤ s.renderH.toNat
    | .rowSearch => s.pixelMode = false ∧ s.scanX = 0 ∧ s.scanY.toNat < s.renderH.toNat
    | .pixelHead x => x ≤ s.renderW.toNat ∧ s.scanY.toNat < s.renderH.toNat
    | .pixelBody => s.scanX.toNat < s.renderW.toNat ∧ s.scanY.toNat < s.renderH.toNat

/-- A pending event belongs to a render with a callback installed, carries the scan's position, and stalls the scan right after a
firing point of the render's mode (10_state.md R34, 43_compositor.md R181, 60_exceptions.md R206). -/
def State.EventConsistent (s : State) : Prop :=
  s.eventPending = true →
    s.busy = true ∧ ctrlEnable s.cbCtrl = true ∧ s.eventX = s.scanX ∧ s.eventY = s.scanY ∧
      (s.pixelMode = true ∧ s.scanPoint = .pixelBody ∨ s.pixelMode = false ∧ s.scanPoint = .rowSearch)

/-- The invariant. -/
structure State.Inv (s : State) : Prop where
  tables : s.TablesCanonical
  reserved : s.ReservedClear
  rowSet : s.RowSetLegal
  scan : s.ScanInFrame
  event : s.EventConsistent

end Sys2Proof.Machine
end

