-- ==== Sys2Proof/Certificates/Slice0/Obligations.lean ====
section
/-! DEFINITION. The statements about the machine, for the provers. Each docstring names the rule it formalises. -/

open Sys2Proof Sys2Proof.Machine

/-! ### Encoding -/

/-- No bit of a command is lost: decoding the bytes of a well-formed command, followed by any others, gives the command and the
others (R71, R73, R74). -/
def Obligations.DecodeOfEncodeIsTheCommand : Prop :=
  ∀ (i : Instr) (rest : List Byte), i.wellFormed = true → decode (encode i ++ rest) = .ok (i, rest)

/-- Nothing else decodes: what the decoder reads is the encoding of a well-formed command (R71, R75). -/
def Obligations.DecodedBytesAreTheEncoding : Prop :=
  ∀ (bs : List Byte) (i : Instr) (rest : List Byte),
    decode bs = .ok (i, rest) → i.wellFormed = true ∧ encode i ++ rest = bs

/-- Words written out from the formats of R73 and the opcodes of R74, one or more a family. -/
def Obligations.SpecWordsDecode : Prop :=
  decode [0x10, 0x00, 0x05, 0x02, 0x00, 0x00, 0x00, 0x03, 0x01] = .ok (.writePattern 0 5 [3, 1], []) ∧
  decode [0x20, 0x01, 0x21, 0x1F, 0x07] = .ok (.setTile 1 33 31 7, []) ∧
  decode [0x28, 0x2C, 0x01, 0x03, 0x00] = .ok (.bgGet 300 3, []) ∧
  decode [0x30, 0x03, 0xFC, 0xFF, 0x0A, 0x00, 0x20, 0x01, 0x01] = .ok (.setSprite 3 (-4) 10 0x20 1 1, []) ∧
  decode [0x42, 0x00, 0x01, 0xF0, 0x00, 0x00, 0xF0, 0x00, 0x00] = .ok (.render 256 240 61440, [])

/-- R78: exactly the opcode bytes 0x00–0x0F, 0x12–0x1F, 0x29–0x2F, 0x3A–0x3F, 0x45–0xFF are reserved; a command with one is
refused ILLEGAL_OPCODE (code 0x01), changes no PPU state, and the decoder stops. That what is left of the stream is dropped is
the model's reading of "must stop" (assumption log 4). -/
def Obligations.ReservedOpcodesAreRefused : Prop :=
  ∀ (op : Byte) (bs : List Byte),
    (decode (op :: bs) = .error .illegalOpcode ↔
      op.toNat ≤ 0x0F ∨ (0x12 ≤ op.toNat ∧ op.toNat ≤ 0x1F) ∨ (0x29 ≤ op.toNat ∧ op.toNat ≤ 0x2F) ∨
        (0x3A ≤ op.toNat ∧ op.toNat ≤ 0x3F) ∨ 0x45 ≤ op.toNat) ∧
    ∀ s : State, s.held = false → s.port = op :: bs → decode (op :: bs) = .error .illegalOpcode →
      step s = .next { s with port := [], responses := s.responses ++ [[0x01]] }

/-- R75: a stream that ends before the command's length is reached is malformed: a proper, non-empty prefix of a command's bytes
is refused MALFORMED (code 0x05) and changes no PPU state. That the cut command's bytes are dropped is the model's reading
(assumption log 4). -/
def Obligations.CutCommandsAreMalformed : Prop :=
  ∀ (i : Instr) (front back : List Byte),
    i.wellFormed = true → encode i = front ++ back → front ≠ [] → back ≠ [] →
    decode front = .error .malformed ∧
    ∀ s : State, s.held = false → s.port = front →
      step s = .next { s with port := [], responses := s.responses ++ [[0x05]] }

/-! ### The machine -/

/-- R39: every piece of state the spec names, right after reset, whatever the mirroring mode. The first clause, that the
machine's reset state is that of the mode `Config.mirroring`, is the model's own choice (assumption log 1) and not R39's. -/
def Obligations.ResetLeavesTheSpecValues : Prop :=
  State.reset = State.resetWith Config.mirroring ∧
  ∀ m : Mirroring,
    (∀ t p y x, (State.resetWith m).ptAt t p y x = 0) ∧
    (∀ n ty tx, (State.resetWith m).tileAt n ty tx = 0) ∧
    (∀ n b c, (State.resetWith m).blockAt n b c = 0) ∧
    (∀ q i, (State.resetWith m).bgPalAt q i = 0 ∧ (State.resetWith m).sprPalAt q i = 0) ∧
    (∀ i, (State.resetWith m).sprAt i = { x := 0, y := 0, tile := 0xFF, pal := 0, attr := 0 }) ∧
    (State.resetWith m).bgPtSel = 0 ∧ (State.resetWith m).sprPtSel = 0 ∧ (State.resetWith m).bgColor = 0 ∧
    (State.resetWith m).scrollX = 0 ∧ (State.resetWith m).scrollY = 0 ∧ (State.resetWith m).cbCtrl = 0x00 ∧
    (State.resetWith m).busy = false ∧ (State.resetWith m).eventPending = false ∧
    (State.resetWith m).eventX = 0 ∧ (State.resetWith m).eventY = 0 ∧
    (State.resetWith m).renderW = 0 ∧ (State.resetWith m).renderH = 0 ∧ (State.resetWith m).fbLen = 0 ∧
    (State.resetWith m).scanX = 0 ∧ (State.resetWith m).scanY = 0 ∧
    (State.resetWith m).rowFront = [] ∧ (State.resetWith m).rowBack = []

/-- The invariant of Safety.lean holds right after reset, whatever the mirroring mode. -/
def Obligations.ResetMeetsTheInvariant : Prop := State.reset.Inv ∧ ∀ m : Mirroring, (State.resetWith m).Inv

/-- Every step keeps the invariant: canonical tables with legal indices, reserved bits clear, at most 8 sprites in the row set, the
scan inside the frame, a pending event at the scan's own position right after a firing point. -/
def Obligations.EveryStepKeepsTheInvariant : Prop :=
  ∀ s t : State, s.Inv → step s = .next t → t.Inv

/-- The machine never stops: from every state a step answers a next state (R200: no operand value of a defined command makes it
fail; R201: a refused command is answered with its code). -/
def Obligations.EveryStepAnswersANextState : Prop := ∀ s : State, ∃ t, step s = .next t

/-- A step runs the decoded command: while the port does not hold, the command at the port's front is taken from it and performed,
and what `exec` answers is the step's outcome; the bytes not taken stay. -/
def Obligations.StepRunsTheDecodedCommand : Prop :=
  ∀ (s t : State) (i : Instr) (rest : List Byte),
    s.held = false → decode s.port = .ok (i, rest) → exec i { s with port := rest } = .next t → step s = .next t

/-- R80, R201: a refused command has no effect on any state and its response is the cause code alone: 0x02 BUSY, 0x03 NO_EVENT,
0x04 ILLEGAL_OPERAND. That the machine then goes on is the model's choice (assumption log 5). -/
def Obligations.RefusedCommandsAnswerTheirCodeOnly : Prop :=
  ∀ (s : State) (i : Instr) (rest : List Byte) (r : Refusal),
    s.held = false → decode s.port = .ok (i, rest) → exec i { s with port := rest } = .refused r →
    ∃ c : Byte,
      (r = .busy ∧ c = 0x02 ∨ r = .noEvent ∧ c = 0x03 ∨ r = .illegalOperand ∧ c = 0x04) ∧
      step s = .next { s with port := rest, responses := s.responses ++ [[c]] }

/-- R201: a command whose bytes decode is refused exactly in these cases. -/
def Obligations.CommandsAreRefusedExactlyWhenTheTableSays : Prop :=
  ∀ (i : Instr) (s : State) (r : Refusal),
    exec i s = .refused r ↔
      (s.busy = true ∧ r = .busy ∧ ((∃ w h len, i = .render w h len) ∨ ∃ ctrl, i = .setCallback ctrl)) ∨
      (s.eventPending = false ∧ r = .noEvent ∧ i = .callbackReturn) ∨
      (r = .illegalOperand ∧ ∃ reg : Byte, 8 < reg.toNat ∧ i = .readCtrl reg)

/-- R203: while BUSY = 1 and EVENT_PENDING = 0 the port accepts no command; the step is the scan's, and only the scan's end sends a
response, RENDER's own `00 01`. -/
def Obligations.ThePortHoldsDuringTheScan : Prop :=
  ∀ s : State, s.busy = true → s.eventPending = false →
    ∃ t, step s = .next t ∧ t.port = s.port ∧
      (t.busy = true ∧ t.responses = s.responses ∨
       t.busy = false ∧ t.responses = s.responses ++ [[0x00, 0x01]])

/-- R215: outside a render, or stalled on an event, the PPU does nothing until a command arrives. -/
def Obligations.NothingHappensUntilACommandArrives : Prop :=
  ∀ s : State, s.held = false → s.port = [] → step s = .next s

/-- R70: each command receives exactly one response. Count the responses sent and the render still owing one: taking anything from
the port adds exactly one, and a step of the scan adds none. -/
def Obligations.EachCommandGetsExactlyOneResponse : Prop :=
  ∀ s t : State, step s = .next t →
    t.responses.length + (if t.busy then 1 else 0) =
      s.responses.length + (if s.busy then 1 else 0) + (if s.held = false ∧ s.port ≠ [] then 1 else 0)

/-- R203: a hold always lifts: the scan reaches a raster event or the render's end after at most
`(RH + 1)·(2·RW + 3) + 1` steps, whatever the state. What the bound counts are the model's own scan points (assumption log 8). -/
def Obligations.TheHoldLiftsWithinABound : Prop :=
  ∀ s : State, s.held = true →
    ∃ (n : Nat) (t : State),
      n ≤ (s.renderH.toNat + 1) * (2 * s.renderW.toNat + 3) + 1 ∧
      Host.Core.run Sys2Proof.core n s = .next t ∧ t.held = false

/-- The mirroring mode is fixed for the life of the PPU: no step changes it (R7, R37, R230). -/
def Obligations.NoStepChangesTheMirroringMode : Prop :=
  ∀ s t : State, step s = .next t → t.mirroring = s.mirroring

/-- CB_CTRL is written only by SET_CALLBACK, which is refused during a render, so it is constant for the whole of a render (R33,
R208). -/
def Obligations.OnlySetCallbackChangesCbCtrl : Prop :=
  ∀ s t : State, step s = .next t → t.cbCtrl ≠ s.cbCtrl →
    s.busy = false ∧ ∃ ctrl rest, decode s.port = .ok (.setCallback ctrl, rest) ∧ t.cbCtrl = ctrl &&& 0x87

/-- BUSY is set only by RENDER's start and cleared only at the render's end, after its last row (R34, R183). The scan
point that says so is the model's own (assumption log 8). -/
def Obligations.BusyFollowsTheRender : Prop :=
  ∀ s t : State, step s = .next t →
    (s.busy = false → t.busy = true → ∃ w h len rest, decode s.port = .ok (.render w h len, rest)) ∧
    (s.busy = true → t.busy = false →
      s.eventPending = false ∧ ∃ y, s.scanPoint = .rowHead y ∧ s.renderH.toNat ≤ y)

/-- Reads have no side effects (R57): a query changes nothing but the response channel. -/
def Obligations.QueriesChangeNoState : Prop :=
  ∀ (i : Instr) (s t : State),
    (match i with
      | .readPatternPixel _ _ _ _ | .readBgPalette _ _ | .bgGet _ _ | .readSpritePalette _ _ | .readSprite _
      | .findSprites _ _ | .findSpritesRow _ | .readCtrl _ => True
      | _ => False) →
    exec i s = .next t → ∃ r, t = { s with responses := s.responses ++ [0x00 :: r] }

/-- Every mutator is idempotent (R57): issuing it twice in a row leaves the same state as once, responses apart. -/
def Obligations.MutatorsAreIdempotent : Prop :=
  ∀ (i : Instr) (s t u : State), s.Inv →
    (match i with
      | .writePattern _ _ _ | .setTile _ _ _ _ | .setTilePalette _ _ _ _ | .setBgPaletteColor _ _ _
      | .setBgPalette _ _ _ _ _ | .setBgPaletteBulk _ _ | .setBgPatternTable _ | .setBgColor _
      | .setSprite _ _ _ _ _ _ | .setSpritePosition _ _ _ | .setSpritePaletteColor _ _ _
      | .setSpritePalette _ _ _ _ _ | .setSpritePaletteBulk _ _ | .setSpritePatternTable _ | .setScroll _ _
      | .setCallback _ => True
      | _ => False) →
    exec i s = .next t → exec i t = .next u → u = { t with responses := u.responses }

/-- The PPU never reads the framebuffer (R50, R55): whatever framebuffer a step finds, it does the same to everything else, and
each entry of the framebuffer either becomes what it becomes from the other framebuffer or is left alone in both. -/
def Obligations.TheFramebufferIsNeverRead : Prop :=
  ∀ (s t : State) (m : List Host.Cell), step s = .next t →
    ∃ m', step { s with fb := m } = .next { t with fb := m' } ∧
      ∀ j, Memory.find? m' j = t.fbAt j ∨ (t.fbAt j = s.fbAt j ∧ Memory.find? m' j = Memory.find? m j)

/-! ### Pattern storage -/

/-- R101 WRITE_PATTERN. Payload byte `k` is stored mod 4 at offset `k mod 64` (row-major, x fastest) of pattern
`(start + k div 64) mod 256` of table `table mod 2`, the later of two bytes for one place winning (bytes 16384 apart); every other
pixel, and every other state, is unchanged; no refusal. -/
def Obligations.WritePatternStoresThePayload : Prop :=
  (∀ (table start n0 n1 n2 n3 : Byte) (pixels rest : List Byte),
    pixels.length = (n3 ++ n2 ++ n1 ++ n0 : BitVec 32).toNat →
    decode (0x10 :: table :: start :: n0 :: n1 :: n2 :: n3 :: (pixels ++ rest)) = .ok (.writePattern table start pixels, rest)) ∧
  ∀ (table start : Byte) (pixels : List Byte) (s : State),
    ∃ t, exec (.writePattern table start pixels) s = .next t ∧
      t = { s with pt := t.pt, responses := s.responses ++ [[0x00]] } ∧
      (∀ k, (h : k < pixels.length) → pixels.length ≤ k + 16384 →
        t.ptAt (table.toNat % 2) ((start.toNat + k / 64) % 256) (k % 64 / 8) (k % 64 % 8) =
          BitVec.ofNat 2 (pixels[k].toNat % 4)) ∧
      (∀ q p y x, p < 256 → y < 8 → x < 8 →
        (q ≠ table.toNat % 2 ∨ ∀ k, k < pixels.length → ¬((start.toNat + k / 64) % 256 = p ∧ k % 64 = 8 * y + x)) →
        t.ptAt q p y x = s.ptAt q p y x)

/-- R100, R102 READ_PATTERN_PIXEL: the response is the pixel, table mod 2, coordinates mod 8; the primitive wraps for any
integers; nothing else changes; no refusal. -/
def Obligations.ReadPatternPixelRespondsThePixel : Prop :=
  (∀ (table pattern x y : Byte) (rest : List Byte),
    decode (0x11 :: table :: pattern :: x :: y :: rest) = .ok (.readPatternPixel table pattern x y, rest)) ∧
  (∀ (s : State) (t p : Nat) (x y : Int),
    s.px t p x y = s.ptAt (t % 2) (p % 256) (y % 8).toNat (x % 8).toNat) ∧
  ∀ (table pattern x y : Byte) (s : State),
    exec (.readPatternPixel table pattern x y) s =
      .next { s with responses := s.responses ++
        [[0x00, (s.ptAt (table.toNat % 2) pattern.toNat (y.toNat % 8) (x.toNat % 8)).setWidth 8]] }

/-! ### Background plane -/

/-- R110, with the extents of R7: the name table and local coordinate of a plane coordinate, in each mirroring mode; they are in
range, and two plane coordinates never share them. -/
def Obligations.NameTableSelectionCoversThePlane : Prop :=
  (extentW .single = 256 ∧ extentH .single = 240 ∧ extentW .vertical = 512 ∧ extentH .vertical = 240 ∧
    extentW .horizontal = 256 ∧ extentH .horizontal = 480) ∧
  (∀ sx sy, ntSelect .single sx sy = (0, sx, sy) ∧ ntSelect .vertical sx sy = (sx / 256, sx % 256, sy) ∧
    ntSelect .horizontal sx sy = (sy / 240, sx, sy % 240)) ∧
  ∀ (m : Mirroring) (sx sy : Nat), sx < extentW m → sy < extentH m →
    ((ntSelect m sx sy).1 < ntCount m ∧ (ntSelect m sx sy).2.1 < 256 ∧ (ntSelect m sx sy).2.2 < 240) ∧
    ∀ sx' sy', sx' < extentW m → sy' < extentH m → ntSelect m sx sy = ntSelect m sx' sy' → sx = sx' ∧ sy = sy'

/-- R111: what the background holds at a plane coordinate: the tile's pattern, the block's palette selector and the pattern
pixel. -/
def Obligations.BackgroundLookupReadsTileBlockAndPattern : Prop :=
  ∀ (s : State) (sx sy n lx ly : Nat), ntSelect s.mirroring sx sy = (n, lx, ly) →
    s.bgLookup sx sy =
      (s.tileAt n (ly / 8) (lx / 8), s.blockAt n (ly / 16) (lx / 16),
       s.ptAt s.bgPtSel.toNat (s.tileAt n (ly / 8) (lx / 8)).toNat (ly % 8) (lx % 8))

/-- R112 SET_TILE: one tile entry is written, indices wrapped; nothing else changes; no refusal. -/
def Obligations.SetTileWritesOneTile : Prop :=
  (∀ (nt x y pattern : Byte) (rest : List Byte),
    decode (0x20 :: nt :: x :: y :: pattern :: rest) = .ok (.setTile nt x y pattern, rest)) ∧
  ∀ (nt x y pattern : Byte) (s : State),
    ∃ t, exec (.setTile nt x y pattern) s = .next t ∧
      t = { s with tile := t.tile, responses := s.responses ++ [[0x00]] } ∧
      ∀ n ty tx, ty < 30 → tx < 32 →
        t.tileAt n ty tx =
          if n = nt.toNat % ntCount s.mirroring ∧ ty = y.toNat % 30 ∧ tx = x.toNat % 32 then pattern
          else s.tileAt n ty tx

/-- R113 SET_TILE_PALETTE: one block entry is written with `pal mod 4`, which governs the whole 2×2-tile neighbourhood of the tile
named and no other pixel of the plane; nothing else changes; no refusal. -/
def Obligations.SetTilePaletteWritesOneBlock : Prop :=
  (∀ (nt x y pal : Byte) (rest : List Byte),
    decode (0x21 :: nt :: x :: y :: pal :: rest) = .ok (.setTilePalette nt x y pal, rest)) ∧
  ∀ (nt x y pal : Byte) (s : State),
    ∃ t, exec (.setTilePalette nt x y pal) s = .next t ∧
      t = { s with block := t.block, responses := s.responses ++ [[0x00]] } ∧
      (∀ n yb xb, yb < 15 → xb < 16 →
        t.blockAt n yb xb =
          if n = nt.toNat % ntCount s.mirroring ∧ yb = y.toNat % 30 / 2 ∧ xb = x.toNat % 32 / 2
          then BitVec.ofNat 2 (pal.toNat % 4) else s.blockAt n yb xb) ∧
      ∀ sx sy n lx ly, sx < extentW s.mirroring → sy < extentH s.mirroring → ntSelect s.mirroring sx sy = (n, lx, ly) →
        (t.bgLookup sx sy).2.1 =
          if n = nt.toNat % ntCount s.mirroring ∧ lx / 8 / 2 = x.toNat % 32 / 2 ∧ ly / 8 / 2 = y.toNat % 30 / 2
          then BitVec.ofNat 2 (pal.toNat % 4) else (s.bgLookup sx sy).2.1

/-- R115 SET_BG_PALETTE_COLOR, R142 SET_SPRITE_PALETTE_COLOR: one entry of the command's own bank is written; nothing else changes,
the other bank least of all; no refusal. -/
def Obligations.PaletteColorCommandsWriteOneEntry : Prop :=
  (∀ (pal slot color : Byte) (rest : List Byte),
    decode (0x22 :: pal :: slot :: color :: rest) = .ok (.setBgPaletteColor pal slot color, rest) ∧
    decode (0x32 :: pal :: slot :: color :: rest) = .ok (.setSpritePaletteColor pal slot color, rest)) ∧
  ∀ (pal slot color : Byte) (s : State),
    (∃ t, exec (.setBgPaletteColor pal slot color) s = .next t ∧
      t = { s with bgPal := t.bgPal, responses := s.responses ++ [[0x00]] } ∧
      ∀ q i, i < 4 →
        t.bgPalAt q i = if q = pal.toNat % 4 ∧ i = slot.toNat % 4 then color else s.bgPalAt q i) ∧
    (∃ t, exec (.setSpritePaletteColor pal slot color) s = .next t ∧
      t = { s with sprPal := t.sprPal, responses := s.responses ++ [[0x00]] } ∧
      ∀ q i, i < 4 →
        t.sprPalAt q i = if q = pal.toNat % 4 ∧ i = slot.toNat % 4 then color else s.sprPalAt q i)

/-- R116 SET_BG_PALETTE, R143 SET_SPRITE_PALETTE: the four entries of palette `pal mod 4` of the command's own bank are written;
nothing else changes; no refusal. -/
def Obligations.PaletteCommandsWriteFourEntries : Prop :=
  (∀ (pal c0 c1 c2 c3 : Byte) (rest : List Byte),
    decode (0x23 :: pal :: c0 :: c1 :: c2 :: c3 :: rest) = .ok (.setBgPalette pal c0 c1 c2 c3, rest) ∧
    decode (0x33 :: pal :: c0 :: c1 :: c2 :: c3 :: rest) = .ok (.setSpritePalette pal c0 c1 c2 c3, rest)) ∧
  ∀ (pal c0 c1 c2 c3 : Byte) (s : State),
    (∃ t, exec (.setBgPalette pal c0 c1 c2 c3) s = .next t ∧
      t = { s with bgPal := t.bgPal, responses := s.responses ++ [[0x00]] } ∧
      ∀ q i, i < 4 →
        t.bgPalAt q i = if q = pal.toNat % 4 then [c0, c1, c2, c3].getD i 0 else s.bgPalAt q i) ∧
    (∃ t, exec (.setSpritePalette pal c0 c1 c2 c3) s = .next t ∧
      t = { s with sprPal := t.sprPal, responses := s.responses ++ [[0x00]] } ∧
      ∀ q i, i < 4 →
        t.sprPalAt q i = if q = pal.toNat % 4 then [c0, c1, c2, c3].getD i 0 else s.sprPalAt q i)

/-- R114, R117 SET_BG_PALETTE_BULK, R144 SET_SPRITE_PALETTE_BULK: color `k` goes to entry `k mod 4` of palette `(pal + k div 4) mod 4`
of the command's own bank, the later of two colors for one entry winning (colors 16 apart); every other entry, and every other
state, is unchanged; no refusal. -/
def Obligations.PaletteBulkCommandsWriteTheSpan : Prop :=
  (∀ (pal n0 n1 : Byte) (colors rest : List Byte), colors.length = (n1 ++ n0 : BitVec 16).toNat →
    decode (0x24 :: pal :: n0 :: n1 :: (colors ++ rest)) = .ok (.setBgPaletteBulk pal colors, rest) ∧
    decode (0x34 :: pal :: n0 :: n1 :: (colors ++ rest)) = .ok (.setSpritePaletteBulk pal colors, rest)) ∧
  ∀ (pal : Byte) (colors : List Byte) (s : State),
    (∃ t, exec (.setBgPaletteBulk pal colors) s = .next t ∧
      t = { s with bgPal := t.bgPal, responses := s.responses ++ [[0x00]] } ∧
      (∀ k, (h : k < colors.length) → colors.length ≤ k + 16 →
        t.bgPalAt ((pal.toNat + k / 4) % 4) (k % 4) = colors[k]) ∧
      (∀ q i, i < 4 → (∀ k, k < colors.length → ¬((pal.toNat + k / 4) % 4 = q ∧ k % 4 = i)) →
        t.bgPalAt q i = s.bgPalAt q i)) ∧
    (∃ t, exec (.setSpritePaletteBulk pal colors) s = .next t ∧
      t = { s with sprPal := t.sprPal, responses := s.responses ++ [[0x00]] } ∧
      (∀ k, (h : k < colors.length) → colors.length ≤ k + 16 →
        t.sprPalAt ((pal.toNat + k / 4) % 4) (k % 4) = colors[k]) ∧
      (∀ q i, i < 4 → (∀ k, k < colors.length → ¬((pal.toNat + k / 4) % 4 = q ∧ k % 4 = i)) →
        t.sprPalAt q i = s.sprPalAt q i))

/-- R118 READ_BG_PALETTE, R145 READ_SPRITE_PALETTE: the response is the entry of the command's own bank; nothing else changes; no
refusal. -/
def Obligations.PaletteReadsRespondTheEntry : Prop :=
  (∀ (pal slot : Byte) (rest : List Byte),
    decode (0x27 :: pal :: slot :: rest) = .ok (.readBgPalette pal slot, rest) ∧
    decode (0x36 :: pal :: slot :: rest) = .ok (.readSpritePalette pal slot, rest)) ∧
  ∀ (pal slot : Byte) (s : State),
    exec (.readBgPalette pal slot) s =
      .next { s with responses := s.responses ++ [[0x00, s.bgPalAt (pal.toNat % 4) (slot.toNat % 4)]] } ∧
    exec (.readSpritePalette pal slot) s =
      .next { s with responses := s.responses ++ [[0x00, s.sprPalAt (pal.toNat % 4) (slot.toNat % 4)]] }

/-- The source's palette round trip (R116, R118; R143, R145): writing four colors and reading slots 0 to 3 of the same palette
gives them back, on either bank. -/
def Obligations.PaletteRoundTrip : Prop :=
  ∀ (p c0 c1 c2 c3 k : Byte) (s t : State), k.toNat < 4 →
    (exec (.setBgPalette p c0 c1 c2 c3) s = .next t →
      exec (.readBgPalette p k) t =
        .next { t with responses := t.responses ++ [[0x00, [c0, c1, c2, c3].getD k.toNat 0]] }) ∧
    (exec (.setSpritePalette p c0 c1 c2 c3) s = .next t →
      exec (.readSpritePalette p k) t =
        .next { t with responses := t.responses ++ [[0x00, [c0, c1, c2, c3].getD k.toNat 0]] })

/-- R119, R146, R120: the two pattern-table selectors are stored mod 2, each by its own command, and the fallback color as given;
nothing else changes; no refusal. -/
def Obligations.SelectorsAndFallbackColorAreStored : Prop :=
  (∀ (v : Byte) (rest : List Byte), decode (0x25 :: v :: rest) = .ok (.setBgPatternTable v, rest) ∧
    decode (0x35 :: v :: rest) = .ok (.setSpritePatternTable v, rest) ∧
    decode (0x26 :: v :: rest) = .ok (.setBgColor v, rest)) ∧
  ∀ (v : Byte) (s : State),
    exec (.setBgPatternTable v) s =
      .next { s with bgPtSel := BitVec.ofNat 1 (v.toNat % 2), responses := s.responses ++ [[0x00]] } ∧
    exec (.setSpritePatternTable v) s =
      .next { s with sprPtSel := BitVec.ofNat 1 (v.toNat % 2), responses := s.responses ++ [[0x00]] } ∧
    exec (.setBgColor v) s = .next { s with bgColor := v, responses := s.responses ++ [[0x00]] }

/-- R121 BG_GET: coordinates reduced mod the plane's extent, then the tile entry and the block entry, in each mirroring mode;
nothing else changes; no refusal. -/
def Obligations.BgGetRespondsTileAndSelector : Prop :=
  (∀ (x0 x1 y0 y1 : Byte) (rest : List Byte),
    decode (0x28 :: x0 :: x1 :: y0 :: y1 :: rest) = .ok (.bgGet (x1 ++ x0) (y1 ++ y0), rest)) ∧
  ∀ (x y : Half) (s : State) (n lx ly : Nat),
    (match s.mirroring with
      | .single => n = 0 ∧ lx = x.toNat % 256 ∧ ly = y.toNat % 240
      | .vertical => n = x.toNat % 512 / 256 ∧ lx = x.toNat % 256 ∧ ly = y.toNat % 240
      | .horizontal => n = y.toNat % 480 / 240 ∧ lx = x.toNat % 256 ∧ ly = y.toNat % 240) →
    exec (.bgGet x y) s =
      .next { s with responses := s.responses ++
        [[0x00, s.tileAt n (ly / 8) (lx / 8), (s.blockAt n (ly / 16) (lx / 16)).setWidth 8]] }

/-! ### Sprite plane -/

/-- R140 SET_SPRITE: every field of one slot is overwritten, PAL mod 4, ATTR whole; nothing else changes; no refusal. -/
def Obligations.SetSpriteOverwritesOneSlot : Prop :=
  (∀ (slot x0 x1 y0 y1 tile pal attr : Byte) (rest : List Byte),
    decode (0x30 :: slot :: x0 :: x1 :: y0 :: y1 :: tile :: pal :: attr :: rest) =
      .ok (.setSprite slot (x1 ++ x0) (y1 ++ y0) tile pal attr, rest)) ∧
  ∀ (slot : Byte) (x y : Half) (tile pal attr : Byte) (s : State),
    ∃ t, exec (.setSprite slot x y tile pal attr) s = .next t ∧
      t = { s with spr := t.spr, responses := s.responses ++ [[0x00]] } ∧
      ∀ i, t.sprAt i =
        if i = slot.toNat % 64
        then { x := x, y := y, tile := tile, pal := BitVec.ofNat 2 (pal.toNat % 4), attr := attr }
        else s.sprAt i

/-- R141 SET_SPRITE_POSITION: X and Y of one slot are written and its other fields kept; nothing else changes; no refusal. -/
def Obligations.SetSpritePositionMovesOneSlot : Prop :=
  (∀ (slot x0 x1 y0 y1 : Byte) (rest : List Byte),
    decode (0x31 :: slot :: x0 :: x1 :: y0 :: y1 :: rest) = .ok (.setSpritePosition slot (x1 ++ x0) (y1 ++ y0), rest)) ∧
  ∀ (slot : Byte) (x y : Half) (s : State),
    ∃ t, exec (.setSpritePosition slot x y) s = .next t ∧
      t = { s with spr := t.spr, responses := s.responses ++ [[0x00]] } ∧
      ∀ i, t.sprAt i = if i = slot.toNat % 64 then { s.sprAt i with x := x, y := y } else s.sprAt i

/-- R147 READ_SPRITE: the response is X, Y (little-endian), TILE, PAL and ATTR of the slot; nothing else changes; no refusal. -/
def Obligations.ReadSpriteRespondsTheSlot : Prop :=
  (∀ (slot : Byte) (rest : List Byte), decode (0x37 :: slot :: rest) = .ok (.readSprite slot, rest)) ∧
  ∀ (slot : Byte) (s : State) (p : Sprite), s.sprAt (slot.toNat % 64) = p →
    exec (.readSprite slot) s =
      .next { s with responses := s.responses ++
        [[0x00, p.x.extractLsb' 0 8, p.x.extractLsb' 8 8, p.y.extractLsb' 0 8, p.y.extractLsb' 8 8, p.tile,
          p.pal.setWidth 8, p.attr]] }

/-- R151: whatever the hit test, the search finds the first 8 hits in slot order, each in the bucket its PRIORITY_BACK attribute
names, slot order kept in each bucket; never more than 8 in the two together. -/
def Obligations.SearchFindsTheFirstEightHits : Prop :=
  ∀ (s : State) (hit : Sprite → Bool) (first : List Nat),
    first = ((List.range 64).filter fun i => hit (s.sprAt i)).take 8 →
    s.search hit =
      (first.filter fun i => !(s.sprAt i).attr.getLsbD 0, first.filter fun i => (s.sprAt i).attr.getLsbD 0) ∧
    (s.search hit).1.length + (s.search hit).2.length ≤ 8

/-- R152 FIND_SPRITES, R153 FIND_SPRITES_ROW, with R150's hit tests on mathematical integers and R151's search: the response lists
the front and the back bucket, each with its length; nothing else changes; no refusal. -/
def Obligations.SearchCommandsRespondTheHits : Prop :=
  (∀ (x0 x1 y0 y1 : Byte) (rest : List Byte),
    decode (0x38 :: x0 :: x1 :: y0 :: y1 :: rest) = .ok (.findSprites (x1 ++ x0) (y1 ++ y0), rest) ∧
    decode (0x39 :: y0 :: y1 :: rest) = .ok (.findSpritesRow (y1 ++ y0), rest)) ∧
  ∀ (x y : Half) (s : State) (front back rowFront rowBack : List Nat),
    (front, back) = s.search (fun p => decide (p.tile ≠ 0xFF ∧
      (p.x.toInt ≤ (x.toNat : Int) ∧ (x.toNat : Int) < p.x.toInt + 8) ∧
      (p.y.toInt ≤ (y.toNat : Int) ∧ (y.toNat : Int) < p.y.toInt + 8))) →
    (rowFront, rowBack) = s.search (fun p => decide (p.tile ≠ 0xFF ∧
      p.y.toInt ≤ (y.toNat : Int) ∧ (y.toNat : Int) < p.y.toInt + 8)) →
    exec (.findSprites x y) s =
      .next { s with responses := s.responses ++
        [0x00 :: BitVec.ofNat 8 front.length :: (front.map (BitVec.ofNat 8) ++
          BitVec.ofNat 8 back.length :: back.map (BitVec.ofNat 8))] } ∧
    exec (.findSpritesRow y) s =
      .next { s with responses := s.responses ++
        [0x00 :: BitVec.ofNat 8 rowFront.length :: (rowFront.map (BitVec.ofNat 8) ++
          BitVec.ofNat 8 rowBack.length :: rowBack.map (BitVec.ofNat 8))] }

/-- R154: under a hit, the sprite's pixel is read from its pattern at the offset from its top-left corner, unflipped, both
coordinates in `[0, 8)`. -/
def Obligations.SpritePixelIsReadAtTheOffset : Prop :=
  ∀ (s : State) (i x y dx dy : Nat), (s.sprAt i).hitPix x y = true →
    (dx : Int) = (x : Int) - (s.sprAt i).x.toInt → (dy : Int) = (y : Int) - (s.sprAt i).y.toInt →
    dx < 8 ∧ dy < 8 ∧ s.sprPixel i x y = s.ptAt s.sprPtSel.toNat (s.sprAt i).tile.toNat dy dx

/-- R155: the flip bits and the reserved bits of ATTR have no effect: sprites that agree in everything but bits 7:1 of ATTR give
the same searches and the same pixels. -/
def Obligations.FlipAndReservedBitsHaveNoEffect : Prop :=
  ∀ (s s' : State), s' = { s with spr := s'.spr } →
    (∀ i, (s'.sprAt i).x = (s.sprAt i).x ∧ (s'.sprAt i).y = (s.sprAt i).y ∧ (s'.sprAt i).tile = (s.sprAt i).tile ∧
      (s'.sprAt i).pal = (s.sprAt i).pal ∧ (s'.sprAt i).attr.getLsbD 0 = (s.sprAt i).attr.getLsbD 0) →
    ∀ x y : Nat,
      s'.findSpritesPixel x y = s.findSpritesPixel x y ∧ s'.findSpritesRow y = s.findSpritesRow y ∧
      (∀ front back, s'.composite x y front back = s.composite x y front back) ∧
      s'.pixelColor x y = s.pixelColor x y

/-! ### Compositor -/

/-- R170 SET_SCROLL: the offsets are stored as given; nothing else changes; no refusal. -/
def Obligations.SetScrollStoresTheOffsets : Prop :=
  (∀ (x0 x1 y0 y1 : Byte) (rest : List Byte),
    decode (0x40 :: x0 :: x1 :: y0 :: y1 :: rest) = .ok (.setScroll (x1 ++ x0) (y1 ++ y0), rest)) ∧
  ∀ (x y : Half) (s : State),
    exec (.setScroll x y) s = .next { s with scrollX := x, scrollY := y, responses := s.responses ++ [[0x00]] }

/-- R171: the background sample coordinate is the Euclidean remainder of the scrolled coordinate, so it lies in the plane; and
scroll is periodic in the plane's extent: offsets that differ by multiples of it give the same image. -/
def Obligations.ScrollIsEuclideanAndPeriodic : Prop :=
  (∀ (s : State) (x y : Nat),
    ((s.scrollMap x y).1 : Int) = ((x : Int) + s.scrollX.toInt) % (extentW s.mirroring : Int) ∧
    ((s.scrollMap x y).2 : Int) = ((y : Int) + s.scrollY.toInt) % (extentH s.mirroring : Int) ∧
    (s.scrollMap x y).1 < extentW s.mirroring ∧ (s.scrollMap x y).2 < extentH s.mirroring) ∧
  ∀ (s s' : State) (j k : Int), s' = { s with scrollX := s'.scrollX, scrollY := s'.scrollY } →
    s'.scrollX.toInt = s.scrollX.toInt + j * (extentW s.mirroring : Int) →
    s'.scrollY.toInt = s.scrollY.toInt + k * (extentH s.mirroring : Int) →
    ∀ x y front back, s'.composite x y front back = s.composite x y front back

/-- R172: the first opaque layer wins: the first sprite of the front list whose pixel is not 0, else the background if its pixel is
not 0, else the first such sprite of the back list, else the fallback color; palettes looked up at the pixel's value. -/
def Obligations.TheFirstOpaqueLayerWins : Prop :=
  ∀ (s : State) (x y : Nat) (front back : List Nat) (p : Byte) (q c : BitVec 2),
    s.bgLookup (s.scrollMap x y).1 (s.scrollMap x y).2 = (p, q, c) →
    s.composite x y front back =
      match front.find? fun i => s.sprPixel i x y != 0 with
      | some i => s.sprPalAt (s.sprAt i).pal.toNat (s.sprPixel i x y).toNat
      | none =>
        if c ≠ 0 then s.bgPalAt q.toNat c.toNat
        else match back.find? fun i => s.sprPixel i x y != 0 with
          | some i => s.sprPalAt (s.sprAt i).pal.toNat (s.sprPixel i x y).toNat
          | none => s.bgColor

/-- Entry 0 of a palette is stored but never reaches the framebuffer (R26, R172): palettes that agree on entries 1 to 3 give the
same picture. -/
def Obligations.PaletteEntryZeroNeverReachesThePicture : Prop :=
  ∀ (s s' : State), s' = { s with bgPal := s'.bgPal, sprPal := s'.sprPal } →
    (∀ q i, 1 ≤ i → i < 4 → s'.bgPalAt q i = s.bgPalAt q i ∧ s'.sprPalAt q i = s.sprPalAt q i) →
    ∀ x y front back, s'.composite x y front back = s.composite x y front back

/-- R173 SET_CALLBACK: outside a render, `ctrl AND 0x87` is stored and nothing else changes; during a render it is refused. -/
def Obligations.SetCallbackStoresTheMask : Prop :=
  (∀ (ctrl : Byte) (rest : List Byte), decode (0x41 :: ctrl :: rest) = .ok (.setCallback ctrl, rest)) ∧
  ∀ (ctrl : Byte) (s : State),
    (s.busy = false →
      exec (.setCallback ctrl) s =
        .next { s with cbCtrl := ctrl &&& 0x87, responses := s.responses ++ [[0x00]] }) ∧
    (s.busy = true → exec (.setCallback ctrl) s = .refused .busy)

/-- R183 RENDER's start: outside a render, BUSY, RW, RH and FB_LEN are set and the scan stands before row 0, with no response yet;
during a render it is refused. The field that says where the scan stands is the model's own (assumption log 8). -/
def Obligations.RenderStartsTheScan : Prop :=
  (∀ (w0 w1 h0 h1 l0 l1 l2 l3 : Byte) (rest : List Byte),
    decode (0x42 :: w0 :: w1 :: h0 :: h1 :: l0 :: l1 :: l2 :: l3 :: rest) =
      .ok (.render (w1 ++ w0) (h1 ++ h0) (l3 ++ l2 ++ l1 ++ l0), rest)) ∧
  ∀ (w h : Half) (len : Word) (s : State),
    (s.busy = false →
      exec (.render w h len) s =
        .next { s with busy := true, renderW := w, renderH := h, fbLen := len, scanPoint := .rowHead 0 }) ∧
    (s.busy = true → exec (.render w h len) s = .refused .busy)

/-- R185 CALLBACK_RETURN: with an event pending, EVENT_PENDING is cleared and nothing else changes, EVENT_X and EVENT_Y included;
with none it is refused. -/
def Obligations.CallbackReturnEndsTheEvent : Prop :=
  (∀ rest : List Byte, decode (0x43 :: rest) = .ok (.callbackReturn, rest)) ∧
  ∀ s : State,
    (s.eventPending = true →
      exec .callbackReturn s = .next { s with eventPending := false, responses := s.responses ++ [[0x00]] }) ∧
    (s.eventPending = false → exec .callbackReturn s = .refused .noEvent)

/-- R186 READ_CTRL, with the register map of R36: registers 0 to 8 respond their value, zero-extended to 16 bits, low byte first;
9 to 255 are refused; nothing else changes. -/
def Obligations.ReadCtrlRespondsTheRegister : Prop :=
  (∀ (reg : Byte) (rest : List Byte), decode (0x44 :: reg :: rest) = .ok (.readCtrl reg, rest)) ∧
  (∀ s : State,
    exec (.readCtrl 0) s = .next { s with responses := s.responses ++ [[0x00, s.bgPtSel.setWidth 8, 0x00]] } ∧
    exec (.readCtrl 1) s = .next { s with responses := s.responses ++ [[0x00, s.sprPtSel.setWidth 8, 0x00]] } ∧
    exec (.readCtrl 2) s = .next { s with responses := s.responses ++ [[0x00, s.bgColor, 0x00]] } ∧
    exec (.readCtrl 3) s = .next { s with responses := s.responses ++
      [[0x00, s.scrollX.extractLsb' 0 8, s.scrollX.extractLsb' 8 8]] } ∧
    exec (.readCtrl 4) s = .next { s with responses := s.responses ++
      [[0x00, s.scrollY.extractLsb' 0 8, s.scrollY.extractLsb' 8 8]] } ∧
    exec (.readCtrl 5) s = .next { s with responses := s.responses ++ [[0x00, s.cbCtrl, 0x00]] } ∧
    exec (.readCtrl 6) s = .next { s with responses := s.responses ++
      [[0x00, BitVec.ofNat 8 ((if s.busy then 1 else 0) + (if s.eventPending then 2 else 0)), 0x00]] } ∧
    exec (.readCtrl 7) s = .next { s with responses := s.responses ++
      [[0x00, s.eventX.extractLsb' 0 8, s.eventX.extractLsb' 8 8]] } ∧
    exec (.readCtrl 8) s = .next { s with responses := s.responses ++
      [[0x00, s.eventY.extractLsb' 0 8, s.eventY.extractLsb' 8 8]] }) ∧
  ∀ (reg : Byte) (s : State), 8 < reg.toNat → exec (.readCtrl reg) s = .refused .illegalOperand

/-! ### The scan and its events -/

/-- R181: a render raises events at exactly these points, one at a time: in row mode at the start of a row, with `(0, y)`, when
HBLANK, or VBLANK and row 0; in pixel mode before every pixel, with `(x, y)`; never with ENABLE clear. No other step sends an
event. The points of the scan at which this is said are the model's own, which R181 does not name (assumption log 8). -/
def Obligations.EventsAreRaisedExactlyAtTheFiringPoints : Prop :=
  (∀ s t : State, s.held = false → step s = .next t → t.events = s.events) ∧
  ∀ s : State, s.held = true →
    ∃ t fired, step s = .next t ∧ t.events = s.events ++ fired ∧ (t.eventPending = true ↔ fired ≠ []) ∧
      fired =
        match s.scanPoint with
        | .rowHead y =>
          if y < s.renderH.toNat ∧ s.cbCtrl.getLsbD 2 = false ∧ s.cbCtrl.getLsbD 7 = true ∧
            (s.cbCtrl.getLsbD 1 = true ∨ s.cbCtrl.getLsbD 0 = true ∧ y = 0)
          then [{ x := 0, y := BitVec.ofNat 16 y }] else []
        | .pixelHead x =>
          if x < s.renderW.toNat ∧ s.cbCtrl.getLsbD 2 = true ∧ s.cbCtrl.getLsbD 7 = true
          then [{ x := BitVec.ofNat 16 x, y := s.scanY }] else []
        | .rowSearch => []
        | .pixelBody => []

/-- R206: raising an event saves the scan position into EVENT_X and EVENT_Y, sets EVENT_PENDING and sends the event; nothing else
of the machine changes but the scan position itself (with the model's own scan point, assumption log 8), and no search or pixel
has been done. -/
def Obligations.RaisingAnEventSavesThePosition : Prop :=
  ∀ s t : State, s.held = true → step s = .next t → t.eventPending = true →
    t.eventX = t.scanX ∧ t.eventY = t.scanY ∧ t.events = s.events ++ [{ x := t.eventX, y := t.eventY }] ∧
    t = { s with eventPending := true, eventX := t.eventX, eventY := t.eventY, events := t.events,
                 scanX := t.scanX, scanY := t.scanY, scanPoint := t.scanPoint }

/-- R184: while an event is pending the scan does not advance and no pixel is computed; only CALLBACK_RETURN ends the event. -/
def Obligations.APendingEventStallsTheScan : Prop :=
  ∀ s t : State, s.busy = true → s.eventPending = true → step s = .next t →
    (t.busy = true ∧ t.renderW = s.renderW ∧ t.renderH = s.renderH ∧ t.fbLen = s.fbLen ∧ t.scanX = s.scanX ∧
      t.scanY = s.scanY ∧ t.scanPoint = s.scanPoint ∧ t.rowFront = s.rowFront ∧ t.rowBack = s.rowBack ∧
      t.eventX = s.eventX ∧ t.eventY = s.eventY ∧ t.events = s.events ∧ t.fb = s.fb) ∧
    (t.eventPending = false → ∃ rest, decode s.port = .ok (.callbackReturn, rest))

/-- R188: while an event is pending the PPU accepts every command but RENDER and SET_CALLBACK, which are refused BUSY (a READ_CTRL
of a register that exists), and answers it at once with status OK. -/
def Obligations.CommandsAreAcceptedDuringAnEvent : Prop :=
  ∀ (i : Instr) (s : State), s.busy = true → s.eventPending = true →
    (match i with
      | .render _ _ _ | .setCallback _ => exec i s = .refused .busy
      | .readCtrl reg => reg.toNat ≤ 8 → ∃ t r, exec i s = .next t ∧ t.responses = s.responses ++ [0x00 :: r]
      | _ => ∃ t r, exec i s = .next t ∧ t.responses = s.responses ++ [0x00 :: r])

/-- R182, R207: a scan stalled on an event resumes at the point it stalled, with the state as the host left it: in row mode the
row's sprite search comes after the event's return, in pixel mode the pixel's search and composition do. The points it stalls at are the
model's own (assumption log 8). -/
def Obligations.TheEventComesBeforeSearchAndPixel : Prop :=
  ∀ (s : State) (rest : List Byte), s.busy = true → s.eventPending = true → s.port = 0x43 :: rest →
    (s.scanPoint = .rowSearch →
      Host.Core.run Sys2Proof.core 2 s =
        .next { s with eventPending := false, port := rest, responses := s.responses ++ [[0x00]],
                       rowFront := (s.findSpritesRow s.scanY.toNat).1, rowBack := (s.findSpritesRow s.scanY.toNat).2,
                       scanPoint := .pixelHead 0 }) ∧
    (s.scanPoint = .pixelBody → s.pixelMode = true →
      s.scanY.toNat * s.renderW.toNat + s.scanX.toNat < s.fbLen.toNat →
      ∃ t, Host.Core.run Sys2Proof.core 2 s = .next t ∧
        t.fbAt (s.scanY.toNat * s.renderW.toNat + s.scanX.toNat) =
          some (s.composite s.scanX.toNat s.scanY.toNat
            (s.findSpritesPixel s.scanX.toNat s.scanY.toNat).1 (s.findSpritesPixel s.scanX.toNat s.scanY.toNat).2))

/-- R22, R183: the scan goes row by row and, in a row, column by column, and never wraps: a row that is left is taken (SCAN_Y set,
and in row mode its sprite set searched before its columns), a column that is left is taken (SCAN_X set, then composed), the last
column leads to the next row, and after the last row the render ends with the response `00 01`. Nothing else changes at a step that
raises no event, ENABLE set or clear: EVENT_X and EVENT_Y keep the last event's position (R34, R35). The points of the scan are the
model's own (assumption log 8). -/
def Obligations.TheScanTakesRowsAndColumnsInOrder : Prop :=
  ∀ s : State, s.held = true → ∃ t, step s = .next t ∧
    match s.scanPoint with
    | .rowHead y =>
      if y < s.renderH.toNat then
        t.busy = true ∧ t.scanY.toNat = y ∧
          (if s.cbCtrl.getLsbD 2 then t.scanPoint = .pixelHead 0 ∧ t.scanX = s.scanX
           else t.scanPoint = .rowSearch ∧ t.scanX = 0) ∧
          (t.eventPending = false → t = { s with scanX := t.scanX, scanY := t.scanY, scanPoint := t.scanPoint })
      else t = { s with busy := false, scanPoint := .rowHead 0, responses := s.responses ++ [[0x00, 0x01]] }
    | .rowSearch =>
      t = { s with rowFront := (s.findSpritesRow s.scanY.toNat).1, rowBack := (s.findSpritesRow s.scanY.toNat).2,
                   scanPoint := .pixelHead 0 }
    | .pixelHead x =>
      if x < s.renderW.toNat then
        t.busy = true ∧ t.scanX.toNat = x ∧ t.scanY = s.scanY ∧ t.scanPoint = .pixelBody ∧
          (t.eventPending = false → t = { s with scanX := t.scanX, scanY := t.scanY, scanPoint := t.scanPoint })
      else t = { s with scanPoint := .rowHead (s.scanY.toNat + 1) }
    | .pixelBody => t = { s with fb := t.fb, scanPoint := .pixelHead (s.scanX.toNat + 1) }

/-- R55, R59, R180: the pixel's step writes entry `y·RW + x` with the color composed from the state as it stands, the sprite lists
those of the render's mode; an entry at or past FB_LEN is dropped; no other entry and no other state changes but the scan point,
which is the model's own (assumption log 8). -/
def Obligations.ThePixelStepWritesOneEntry : Prop :=
  ∀ (s : State) (x y i : Nat) (front back : List Nat), s.held = true → s.scanPoint = .pixelBody →
    x = s.scanX.toNat → y = s.scanY.toNat → i = y * s.renderW.toNat + x →
    (if s.cbCtrl.getLsbD 2 then (front, back) = s.findSpritesPixel x y
     else front = (s.rowFront.filter fun k => (s.sprAt k).hitX x) ∧
          back = (s.rowBack.filter fun k => (s.sprAt k).hitX x)) →
    ∃ t, step s = .next t ∧ t = { s with fb := t.fb, scanPoint := .pixelHead (x + 1) } ∧
      ∀ j, t.fbAt j = if j = i ∧ i < s.fbLen.toNat then some (s.composite x y front back) else s.fbAt j

/-- A render writes only the framebuffer and the arbiter's and the scan's own state (R58, R187): a step of the scan changes no
table, palette, selector, color, scroll, callback control, and none of the render's own operands. -/
def Obligations.TheScanChangesNoPpuTable : Prop :=
  ∀ s t : State, s.held = true → step s = .next t →
    t = { s with fb := t.fb, busy := t.busy, eventPending := t.eventPending, eventX := t.eventX, eventY := t.eventY,
                 scanX := t.scanX, scanY := t.scanY, rowFront := t.rowFront, rowBack := t.rowBack,
                 scanPoint := t.scanPoint, responses := t.responses, events := t.events }

/-- R183, R187: RENDER with no callback installed, from an idle machine, ends; its framebuffer writes are those of the spec's loop:
every entry `y·w + x` of the frame below `len` holds the color composed, from the state the render started in, with the sprite
lists of the render's mode (R180); every other entry keeps the host's value; the response is `00 01`; no event is sent; and of
the PPU's state only the render's internal registers change, with the model's own scan point (assumption log 8). A render with
ENABLE set is left to the statements about one step of the scan, since the host acts in its events. -/
def Obligations.ARenderWithoutCallbackDrawsTheFrame : Prop :=
  ∀ (s : State) (w h : Half) (len : Word) (rest : List Byte),
    s.busy = false → s.eventPending = false → s.cbCtrl.getLsbD 7 = false → s.port = encode (.render w h len) ++ rest →
    ∃ (n : Nat) (t : State), Host.Core.run Sys2Proof.core n s = .next t ∧ t.busy = false ∧
      (∀ x y, x < w.toNat → y < h.toNat → y * w.toNat + x < len.toNat →
        t.fbAt (y * w.toNat + x) =
          some (if s.cbCtrl.getLsbD 2
            then s.composite x y (s.findSpritesPixel x y).1 (s.findSpritesPixel x y).2
            else s.composite x y ((s.findSpritesRow y).1.filter fun i => (s.sprAt i).hitX x)
              ((s.findSpritesRow y).2.filter fun i => (s.sprAt i).hitX x))) ∧
      (∀ i, w.toNat * h.toNat ≤ i ∨ len.toNat ≤ i → t.fbAt i = s.fbAt i) ∧
      t = { s with fb := t.fb, port := rest, responses := s.responses ++ [[0x00, 0x01]],
                   renderW := t.renderW, renderH := t.renderH, fbLen := t.fbLen, scanX := t.scanX, scanY := t.scanY,
                   rowFront := t.rowFront, rowBack := t.rowBack, scanPoint := t.scanPoint }
end

