-- ==== Sys2Proof/Laws/Decode.lean ====
section
/-! SUPPORT. The byte order's round trips, and what each format's decoder does with the bytes the encoder writes. -/

namespace Sys2Proof

/-! ### Byte order -/

theorem le16_toNat (b0 b1 : Byte) : (le16 b0 b1).toNat = b0.toNat + 256 * b1.toNat := by
  have h := b0.isLt
  show (b1 ++ b0 : BitVec (8 + 8)).toNat = _
  rw [BitVec.toNat_append, ← Nat.shiftLeft_add_eq_or_of_lt h, Nat.shiftLeft_eq]; omega

theorem le32_toNat (b0 b1 b2 b3 : Byte) :
    (le32 b0 b1 b2 b3).toNat = b0.toNat + 256 * b1.toNat + 65536 * b2.toNat + 16777216 * b3.toNat := by
  have h0 := b0.isLt
  have h1 := b1.isLt
  have h2 := b2.isLt
  show (b3 ++ b2 ++ b1 ++ b0 : BitVec (8 + 8 + 8 + 8)).toNat = _
  rw [BitVec.toNat_append, ← Nat.shiftLeft_add_eq_or_of_lt h0, BitVec.toNat_append, ← Nat.shiftLeft_add_eq_or_of_lt h1,
    BitVec.toNat_append, ← Nat.shiftLeft_add_eq_or_of_lt h2]
  simp only [Nat.shiftLeft_eq]; omega

theorem extractByte_toNat {w : Nat} (v : BitVec w) (k : Nat) : (v.extractLsb' k 8).toNat = v.toNat / 2 ^ k % 256 := by
  rw [BitVec.extractLsb'_toNat, Nat.shiftRight_eq_div_pow]

@[simp] theorem le16_bytes (v : Half) : le16 (v.extractLsb' 0 8) (v.extractLsb' 8 8) = v := by
  have := v.isLt
  apply BitVec.eq_of_toNat_eq
  rw [le16_toNat, extractByte_toNat, extractByte_toNat]; omega

@[simp] theorem le32_bytes (v : Word) :
    le32 (v.extractLsb' 0 8) (v.extractLsb' 8 8) (v.extractLsb' 16 8) (v.extractLsb' 24 8) = v := by
  have := v.isLt
  apply BitVec.eq_of_toNat_eq
  simp only [le32_toNat, extractByte_toNat]; omega

@[simp] theorem bytes16_le16 (b0 b1 : Byte) : bytes16 (le16 b0 b1) = [b0, b1] := by
  have := b0.isLt
  have := b1.isLt
  simp only [bytes16, List.cons.injEq, and_true]
  constructor <;> apply BitVec.eq_of_toNat_eq <;> rw [extractByte_toNat, le16_toNat] <;> omega

@[simp] theorem bytes32_le32 (b0 b1 b2 b3 : Byte) : bytes32 (le32 b0 b1 b2 b3) = [b0, b1, b2, b3] := by
  have := b0.isLt
  have := b1.isLt
  have := b2.isLt
  have := b3.isLt
  simp only [bytes32, List.cons.injEq, and_true]
  refine ⟨?_, ?_, ?_, ?_⟩ <;> apply BitVec.eq_of_toNat_eq <;> rw [extractByte_toNat, le32_toNat] <;> omega

/-! ### Payloads -/

/-- A payload of exactly `n` bytes, followed by any others, is read whole. -/
theorem decodePayload_append (k : List Byte → Instr) {n : Nat} {payload : List Byte} (h : payload.length = n)
    (rest : List Byte) : decodePayload k n (payload ++ rest) = .ok (k payload, rest) := by
  subst h; simp [decodePayload]

/-- A payload that ends too soon is malformed. -/
theorem decodePayload_short (k : List Byte → Instr) {n : Nat} {bs : List Byte} (h : bs.length < n) :
    decodePayload k n bs = .error .malformed := by simp [decodePayload, h]

/-- What a payload that was read is made of. -/
theorem decodePayload_ok {k : List Byte → Instr} {n : Nat} {bs rest : List Byte} {i : Instr}
    (h : decodePayload k n bs = .ok (i, rest)) :
    ∃ payload, payload.length = n ∧ bs = payload ++ rest ∧ i = k payload := by
  unfold decodePayload at h
  split at h
  · simp at h
  · simp only [Except.ok.injEq, Prod.mk.injEq] at h
    exact ⟨bs.take n, by simp; omega, by rw [← h.2, List.take_append_drop], h.1.symm⟩

end Sys2Proof
end

