-- ==== Sys2Proof/Laws/Keys.lean ====
section
/-! SUPPORT. The keys of the tables are one-to-one on the index tuples and bounded by the tables' sizes (20_memory.md R50). -/

namespace Sys2Proof.Machine

theorem ptKey_inj {t p y x t' p' y' x' : Nat} (hp : p < 256) (hy : y < 8) (hx : x < 8) (hp' : p' < 256) (hy' : y' < 8)
    (hx' : x' < 8) : ptKey t p y x = ptKey t' p' y' x' ↔ t = t' ∧ p = p' ∧ y = y' ∧ x = x' := by
  unfold ptKey; omega

theorem tileKey_inj {n ty tx n' ty' tx' : Nat} (hy : ty < 30) (hx : tx < 32) (hy' : ty' < 30) (hx' : tx' < 32) :
    tileKey n ty tx = tileKey n' ty' tx' ↔ n = n' ∧ ty = ty' ∧ tx = tx' := by
  unfold tileKey; omega

theorem blockKey_inj {n yb xb n' yb' xb' : Nat} (hy : yb < 15) (hx : xb < 16) (hy' : yb' < 15) (hx' : xb' < 16) :
    blockKey n yb xb = blockKey n' yb' xb' ↔ n = n' ∧ yb = yb' ∧ xb = xb' := by
  unfold blockKey; omega

theorem palKey_inj {q i q' i' : Nat} (hi : i < 4) (hi' : i' < 4) : palKey q i = palKey q' i' ↔ q = q' ∧ i = i' := by
  unfold palKey; omega

theorem ptKey_lt {t p y x : Nat} (ht : t < 2) (hp : p < 256) (hy : y < 8) (hx : x < 8) : ptKey t p y x < 32768 := by
  unfold ptKey; omega

theorem tileKey_lt {n ty tx k : Nat} (hn : n < k) (hy : ty < 30) (hx : tx < 32) : tileKey n ty tx < 960 * k := by
  unfold tileKey; omega

theorem blockKey_lt {n yb xb k : Nat} (hn : n < k) (hy : yb < 15) (hx : xb < 16) : blockKey n yb xb < 240 * k := by
  unfold blockKey; omega

theorem palKey_lt {q i : Nat} (hq : q < 4) (hi : i < 4) : palKey q i < 16 := by
  unfold palKey; omega

/-! ### Every index operand is in range after its reduction (R52) -/

theorem tableIndex_lt (b : Byte) : tableIndex b < 2 := Nat.mod_lt _ (by decide)
theorem patternIndex_eq (b : Byte) : patternIndex b = b.toNat := Nat.mod_eq_of_lt b.isLt
theorem tileColumn_lt (b : Byte) : tileColumn b < 32 := Nat.mod_lt _ (by decide)
theorem tileRow_lt (b : Byte) : tileRow b < 30 := Nat.mod_lt _ (by decide)
theorem blockColumn_lt (b : Byte) : blockColumn b < 16 := by
  have := tileColumn_lt b; unfold blockColumn; omega
theorem blockRow_lt (b : Byte) : blockRow b < 15 := by
  have := tileRow_lt b; unfold blockRow; omega
theorem paletteIndex_lt (b : Byte) : paletteIndex b < 4 := Nat.mod_lt _ (by decide)
theorem entryIndex_lt (b : Byte) : entryIndex b < 4 := Nat.mod_lt _ (by decide)
theorem spriteIndex_lt (b : Byte) : spriteIndex b < 64 := Nat.mod_lt _ (by decide)
theorem ntCount_pos (m : Mirroring) : 0 < ntCount m := by cases m <;> decide
theorem nameTableIndex_lt (m : Mirroring) (b : Byte) : nameTableIndex m b < ntCount m := Nat.mod_lt _ (ntCount_pos m)

end Sys2Proof.Machine
end

