-- ==== Sys2Proof/Laws/Memory.lean ====
section
/-! SUPPORT. The laws of the sparse memories: a read after a write, the canonical form, and that equal reads of canonical memories
mean equal memories. -/

namespace Sys2Proof.Machine

variable {α : Type}

/-! ### A read after a write -/

theorem Memory.find?_put (m : Table α) (k j : Nat) (v : α) :
    Memory.find? (Memory.put m k v) j = if j = k then some v else Memory.find? m j := by
  induction m with
  | nil => simp [Memory.put, Memory.find?, eq_comm]
  | cons c m ih =>
    obtain ⟨a, w⟩ := c
    simp only [Memory.put]
    split
    · simp [Memory.find?, eq_comm]
    · split
      · simp only [Memory.find?]; grind
      · simp only [Memory.find?, ih]; grind

theorem Memory.find?_del (m : Table α) (k j : Nat) :
    Memory.find? (Memory.del m k) j = if j = k then none else Memory.find? m j := by
  induction m with
  | nil => simp [Memory.del, Memory.find?]
  | cons c m ih =>
    obtain ⟨a, w⟩ := c
    simp only [Memory.del] at ih ⊢
    by_cases h : a = k <;> simp only [List.filter_cons, h, Memory.find?] <;> grind [Memory.find?]

/-- A table reads what was last written at a key, and every other key as before. -/
theorem Memory.get_set [DecidableEq α] (z : α) (m : Table α) (k j : Nat) (v : α) :
    Memory.get z (Memory.set z m k v) j = if j = k then v else Memory.get z m j := by
  unfold Memory.get Memory.set
  split
  · rw [Memory.find?_del]; grind
  · rw [Memory.find?_put]; grind

@[simp] theorem Memory.get_nil (z : α) (k : Nat) : Memory.get z ([] : Table α) k = z := rfl

/-! ### The canonical form -/

/-- The empty table is canonical. -/
theorem Memory.wf_nil [DecidableEq α] (unlisted : Option α) : Memory.wf unlisted ([] : Table α) :=
  ⟨List.Pairwise.nil, fun _ h => nomatch h⟩

theorem Memory.mem_put {m : Table α} {k : Nat} {v : α} {c : Nat × α} (h : c ∈ Memory.put m k v) :
    c = (k, v) ∨ c ∈ m := by
  induction m with
  | nil => simpa [Memory.put] using h
  | cons d m ih =>
    obtain ⟨a, w⟩ := d
    simp only [Memory.put] at h
    grind

theorem Memory.put_sorted {m : Table α} (h : (m.map Prod.fst).Pairwise (· < ·)) (k : Nat) (v : α) :
    ((Memory.put m k v).map Prod.fst).Pairwise (· < ·) := by
  induction m with
  | nil => simp [Memory.put]
  | cons d m ih =>
    obtain ⟨a, w⟩ := d
    simp only [List.map_cons, List.pairwise_cons] at h
    simp only [Memory.put]
    split
    · simp only [List.map_cons, List.pairwise_cons, List.mem_cons]; grind
    · split
      · simp only [List.map_cons, List.pairwise_cons]; grind
      · simp only [List.map_cons, List.pairwise_cons, List.mem_map]
        refine ⟨?_, ih h.2⟩
        rintro _ ⟨c, hc, rfl⟩
        rcases Memory.mem_put hc with rfl | hc
        · simp; omega
        · exact h.1 _ (List.mem_map_of_mem hc)

theorem Memory.del_sorted {m : Table α} (h : (m.map Prod.fst).Pairwise (· < ·)) (k : Nat) :
    ((Memory.del m k).map Prod.fst).Pairwise (· < ·) :=
  h.sublist (List.filter_sublist.map _)

/-- Every write to a table keeps its canonical form. -/
theorem Memory.set_wf [DecidableEq α] {z : α} {m : Table α} (h : Memory.wf (some z) m) (k : Nat) (v : α) :
    Memory.wf (some z) (Memory.set z m k v) := by
  obtain ⟨hs, hz⟩ := h
  unfold Memory.set
  split
  · exact ⟨Memory.del_sorted hs k, fun c hc => hz c (List.mem_of_mem_filter hc)⟩
  · refine ⟨Memory.put_sorted hs k v, fun c hc => ?_⟩
    rcases Memory.mem_put hc with rfl | hc
    · simpa
    · exact hz c hc

/-- Every write to the framebuffer keeps its canonical form. -/
theorem Memory.put_wf_none [DecidableEq α] {m : Table α} (h : Memory.wf none m) (k : Nat) (v : α) :
    Memory.wf none (Memory.put m k v) :=
  ⟨Memory.put_sorted h.1 k v, fun _ _ => by simp⟩

/-- A write at a legal index lists only legal indices. -/
theorem Memory.set_keysBelow [DecidableEq α] {z : α} {m : Table α} {b : Nat} (h : KeysBelow b m) {k : Nat} (hk : k < b)
    (v : α) : KeysBelow b (Memory.set z m k v) := by
  intro c hc
  unfold Memory.set at hc
  split at hc
  · exact h c (List.mem_of_mem_filter hc)
  · rcases Memory.mem_put hc with rfl | hc
    · exact hk
    · exact h c hc

theorem Memory.put_keysBelow {m : Table α} {b : Nat} (h : KeysBelow b m) {k : Nat} (hk : k < b) (v : α) :
    KeysBelow b (Memory.put m k v) := by
  intro c hc
  rcases Memory.mem_put hc with rfl | hc
  · exact hk
  · exact h c hc

/-! ### Equal reads, equal memories -/

theorem Memory.find?_eq_none_of_lt {m : Table α} {k : Nat} (h : ∀ c ∈ m, k < c.1) : Memory.find? m k = none := by
  induction m with
  | nil => rfl
  | cons d m ih =>
    have := h d (by simp)
    simp only [Memory.find?, if_neg (by omega : ¬ d.1 = k)]
    exact ih fun c hc => h c (by simp [hc])

theorem Memory.eq_of_find?_eq {m n : Table α} (hm : (m.map Prod.fst).Pairwise (· < ·))
    (hn : (n.map Prod.fst).Pairwise (· < ·)) (h : ∀ k, Memory.find? m k = Memory.find? n k) : m = n := by
  induction m generalizing n with
  | nil =>
    cases n with
    | nil => rfl
    | cons d n => have := h d.1; simp [Memory.find?] at this
  | cons c m ih =>
    obtain ⟨a, v⟩ := c
    cases n with
    | nil => have := h a; simp [Memory.find?] at this
    | cons d n =>
      obtain ⟨b, w⟩ := d
      simp only [List.map_cons, List.pairwise_cons, List.mem_map, forall_exists_index, and_imp,
        forall_apply_eq_imp_iff₂] at hm hn
      have ha := h a
      have hb := h b
      simp only [Memory.find?, if_true] at ha hb
      rcases Nat.lt_trichotomy a b with hlt | rfl | hlt
      · rw [if_neg (by omega), Memory.find?_eq_none_of_lt fun c hc => by have := hn.1 c hc; omega] at ha
        simp at ha
      · simp at ha
        subst ha
        congr 1
        refine ih hm.2 hn.2 fun k => ?_
        have hk := h k
        simp only [Memory.find?] at hk
        by_cases hka : a = k
        · subst hka
          rw [Memory.find?_eq_none_of_lt hm.1, Memory.find?_eq_none_of_lt hn.1]
        · simpa [if_neg hka] using hk
      · rw [if_neg (by omega), Memory.find?_eq_none_of_lt fun c hc => by have := hm.1 c hc; omega] at hb
        simp at hb

theorem Memory.find?_ne_unlisted [DecidableEq α] {z : α} {m : Table α} (h : Memory.wf (some z) m) (k : Nat) :
    Memory.find? m k ≠ some z := by
  obtain ⟨-, hz⟩ := h
  induction m with
  | nil => simp [Memory.find?]
  | cons d m ih =>
    simp only [Memory.find?]
    split
    · exact hz d (by simp)
    · exact ih fun c hc => hz c (by simp [hc])

/-- Canonical tables that read alike at every key are the same data. -/
theorem Memory.eq_of_get_eq [DecidableEq α] {z : α} {m n : Table α} (hm : Memory.wf (some z) m)
    (hn : Memory.wf (some z) n) (h : ∀ k, Memory.get z m k = Memory.get z n k) : m = n := by
  refine Memory.eq_of_find?_eq hm.1 hn.1 fun k => ?_
  have hk := h k
  have h1 := Memory.find?_ne_unlisted hm k
  have h2 := Memory.find?_ne_unlisted hn k
  unfold Memory.get at hk
  cases e1 : Memory.find? m k <;> cases e2 : Memory.find? n k <;> simp_all

/-- Writing a value a canonical table already holds changes nothing. -/
theorem Memory.set_same [DecidableEq α] {z : α} {m : Table α} (h : Memory.wf (some z) m) {k : Nat} {v : α}
    (hv : Memory.get z m k = v) : Memory.set z m k v = m := by
  refine Memory.eq_of_get_eq (Memory.set_wf h k v) h fun j => ?_
  rw [Memory.get_set]
  split
  · subst_vars; rfl
  · rfl

end Sys2Proof.Machine
end

