-- ==== Sys2Proof/Laws/State.lean ====
section
/-! SUPPORT. One lemma per field per update: what each named operation over the state makes of each field. -/

namespace Sys2Proof.Machine

variable (s : State)

/-! ### writeTile -/

@[simp] theorem State.writeTile_mirroring (n ty tx : Nat) (v : Byte) : (s.writeTile n ty tx v).mirroring = s.mirroring := rfl
@[simp] theorem State.writeTile_pt (n ty tx : Nat) (v : Byte) : (s.writeTile n ty tx v).pt = s.pt := rfl
@[simp] theorem State.writeTile_tile (n ty tx : Nat) (v : Byte) : (s.writeTile n ty tx v).tile = Memory.set unlistedByte s.tile (tileKey n ty tx) v := rfl
@[simp] theorem State.writeTile_block (n ty tx : Nat) (v : Byte) : (s.writeTile n ty tx v).block = s.block := rfl
@[simp] theorem State.writeTile_bgPal (n ty tx : Nat) (v : Byte) : (s.writeTile n ty tx v).bgPal = s.bgPal := rfl
@[simp] theorem State.writeTile_bgPtSel (n ty tx : Nat) (v : Byte) : (s.writeTile n ty tx v).bgPtSel = s.bgPtSel := rfl
@[simp] theorem State.writeTile_bgColor (n ty tx : Nat) (v : Byte) : (s.writeTile n ty tx v).bgColor = s.bgColor := rfl
@[simp] theorem State.writeTile_spr (n ty tx : Nat) (v : Byte) : (s.writeTile n ty tx v).spr = s.spr := rfl
@[simp] theorem State.writeTile_sprPal (n ty tx : Nat) (v : Byte) : (s.writeTile n ty tx v).sprPal = s.sprPal := rfl
@[simp] theorem State.writeTile_sprPtSel (n ty tx : Nat) (v : Byte) : (s.writeTile n ty tx v).sprPtSel = s.sprPtSel := rfl
@[simp] theorem State.writeTile_scrollX (n ty tx : Nat) (v : Byte) : (s.writeTile n ty tx v).scrollX = s.scrollX := rfl
@[simp] theorem State.writeTile_scrollY (n ty tx : Nat) (v : Byte) : (s.writeTile n ty tx v).scrollY = s.scrollY := rfl
@[simp] theorem State.writeTile_cbCtrl (n ty tx : Nat) (v : Byte) : (s.writeTile n ty tx v).cbCtrl = s.cbCtrl := rfl
@[simp] theorem State.writeTile_busy (n ty tx : Nat) (v : Byte) : (s.writeTile n ty tx v).busy = s.busy := rfl
@[simp] theorem State.writeTile_eventPending (n ty tx : Nat) (v : Byte) : (s.writeTile n ty tx v).eventPending = s.eventPending := rfl
@[simp] theorem State.writeTile_eventX (n ty tx : Nat) (v : Byte) : (s.writeTile n ty tx v).eventX = s.eventX := rfl
@[simp] theorem State.writeTile_eventY (n ty tx : Nat) (v : Byte) : (s.writeTile n ty tx v).eventY = s.eventY := rfl
@[simp] theorem State.writeTile_renderW (n ty tx : Nat) (v : Byte) : (s.writeTile n ty tx v).renderW = s.renderW := rfl
@[simp] theorem State.writeTile_renderH (n ty tx : Nat) (v : Byte) : (s.writeTile n ty tx v).renderH = s.renderH := rfl
@[simp] theorem State.writeTile_fbLen (n ty tx : Nat) (v : Byte) : (s.writeTile n ty tx v).fbLen = s.fbLen := rfl
@[simp] theorem State.writeTile_scanX (n ty tx : Nat) (v : Byte) : (s.writeTile n ty tx v).scanX = s.scanX := rfl
@[simp] theorem State.writeTile_scanY (n ty tx : Nat) (v : Byte) : (s.writeTile n ty tx v).scanY = s.scanY := rfl
@[simp] theorem State.writeTile_rowFront (n ty tx : Nat) (v : Byte) : (s.writeTile n ty tx v).rowFront = s.rowFront := rfl
@[simp] theorem State.writeTile_rowBack (n ty tx : Nat) (v : Byte) : (s.writeTile n ty tx v).rowBack = s.rowBack := rfl
@[simp] theorem State.writeTile_scanPoint (n ty tx : Nat) (v : Byte) : (s.writeTile n ty tx v).scanPoint = s.scanPoint := rfl
@[simp] theorem State.writeTile_fb (n ty tx : Nat) (v : Byte) : (s.writeTile n ty tx v).fb = s.fb := rfl
@[simp] theorem State.writeTile_port (n ty tx : Nat) (v : Byte) : (s.writeTile n ty tx v).port = s.port := rfl
@[simp] theorem State.writeTile_responses (n ty tx : Nat) (v : Byte) : (s.writeTile n ty tx v).responses = s.responses := rfl
@[simp] theorem State.writeTile_events (n ty tx : Nat) (v : Byte) : (s.writeTile n ty tx v).events = s.events := rfl

/-! ### writeBlock -/

@[simp] theorem State.writeBlock_mirroring (n yb xb : Nat) (v : BitVec 2) : (s.writeBlock n yb xb v).mirroring = s.mirroring := rfl
@[simp] theorem State.writeBlock_pt (n yb xb : Nat) (v : BitVec 2) : (s.writeBlock n yb xb v).pt = s.pt := rfl
@[simp] theorem State.writeBlock_tile (n yb xb : Nat) (v : BitVec 2) : (s.writeBlock n yb xb v).tile = s.tile := rfl
@[simp] theorem State.writeBlock_block (n yb xb : Nat) (v : BitVec 2) : (s.writeBlock n yb xb v).block = Memory.set unlistedSelector s.block (blockKey n yb xb) v := rfl
@[simp] theorem State.writeBlock_bgPal (n yb xb : Nat) (v : BitVec 2) : (s.writeBlock n yb xb v).bgPal = s.bgPal := rfl
@[simp] theorem State.writeBlock_bgPtSel (n yb xb : Nat) (v : BitVec 2) : (s.writeBlock n yb xb v).bgPtSel = s.bgPtSel := rfl
@[simp] theorem State.writeBlock_bgColor (n yb xb : Nat) (v : BitVec 2) : (s.writeBlock n yb xb v).bgColor = s.bgColor := rfl
@[simp] theorem State.writeBlock_spr (n yb xb : Nat) (v : BitVec 2) : (s.writeBlock n yb xb v).spr = s.spr := rfl
@[simp] theorem State.writeBlock_sprPal (n yb xb : Nat) (v : BitVec 2) : (s.writeBlock n yb xb v).sprPal = s.sprPal := rfl
@[simp] theorem State.writeBlock_sprPtSel (n yb xb : Nat) (v : BitVec 2) : (s.writeBlock n yb xb v).sprPtSel = s.sprPtSel := rfl
@[simp] theorem State.writeBlock_scrollX (n yb xb : Nat) (v : BitVec 2) : (s.writeBlock n yb xb v).scrollX = s.scrollX := rfl
@[simp] theorem State.writeBlock_scrollY (n yb xb : Nat) (v : BitVec 2) : (s.writeBlock n yb xb v).scrollY = s.scrollY := rfl
@[simp] theorem State.writeBlock_cbCtrl (n yb xb : Nat) (v : BitVec 2) : (s.writeBlock n yb xb v).cbCtrl = s.cbCtrl := rfl
@[simp] theorem State.writeBlock_busy (n yb xb : Nat) (v : BitVec 2) : (s.writeBlock n yb xb v).busy = s.busy := rfl
@[simp] theorem State.writeBlock_eventPending (n yb xb : Nat) (v : BitVec 2) : (s.writeBlock n yb xb v).eventPending = s.eventPending := rfl
@[simp] theorem State.writeBlock_eventX (n yb xb : Nat) (v : BitVec 2) : (s.writeBlock n yb xb v).eventX = s.eventX := rfl
@[simp] theorem State.writeBlock_eventY (n yb xb : Nat) (v : BitVec 2) : (s.writeBlock n yb xb v).eventY = s.eventY := rfl
@[simp] theorem State.writeBlock_renderW (n yb xb : Nat) (v : BitVec 2) : (s.writeBlock n yb xb v).renderW = s.renderW := rfl
@[simp] theorem State.writeBlock_renderH (n yb xb : Nat) (v : BitVec 2) : (s.writeBlock n yb xb v).renderH = s.renderH := rfl
@[simp] theorem State.writeBlock_fbLen (n yb xb : Nat) (v : BitVec 2) : (s.writeBlock n yb xb v).fbLen = s.fbLen := rfl
@[simp] theorem State.writeBlock_scanX (n yb xb : Nat) (v : BitVec 2) : (s.writeBlock n yb xb v).scanX = s.scanX := rfl
@[simp] theorem State.writeBlock_scanY (n yb xb : Nat) (v : BitVec 2) : (s.writeBlock n yb xb v).scanY = s.scanY := rfl
@[simp] theorem State.writeBlock_rowFront (n yb xb : Nat) (v : BitVec 2) : (s.writeBlock n yb xb v).rowFront = s.rowFront := rfl
@[simp] theorem State.writeBlock_rowBack (n yb xb : Nat) (v : BitVec 2) : (s.writeBlock n yb xb v).rowBack = s.rowBack := rfl
@[simp] theorem State.writeBlock_scanPoint (n yb xb : Nat) (v : BitVec 2) : (s.writeBlock n yb xb v).scanPoint = s.scanPoint := rfl
@[simp] theorem State.writeBlock_fb (n yb xb : Nat) (v : BitVec 2) : (s.writeBlock n yb xb v).fb = s.fb := rfl
@[simp] theorem State.writeBlock_port (n yb xb : Nat) (v : BitVec 2) : (s.writeBlock n yb xb v).port = s.port := rfl
@[simp] theorem State.writeBlock_responses (n yb xb : Nat) (v : BitVec 2) : (s.writeBlock n yb xb v).responses = s.responses := rfl
@[simp] theorem State.writeBlock_events (n yb xb : Nat) (v : BitVec 2) : (s.writeBlock n yb xb v).events = s.events := rfl

/-! ### writeSprite -/

@[simp] theorem State.writeSprite_mirroring (i : Nat) (v : Sprite) : (s.writeSprite i v).mirroring = s.mirroring := rfl
@[simp] theorem State.writeSprite_pt (i : Nat) (v : Sprite) : (s.writeSprite i v).pt = s.pt := rfl
@[simp] theorem State.writeSprite_tile (i : Nat) (v : Sprite) : (s.writeSprite i v).tile = s.tile := rfl
@[simp] theorem State.writeSprite_block (i : Nat) (v : Sprite) : (s.writeSprite i v).block = s.block := rfl
@[simp] theorem State.writeSprite_bgPal (i : Nat) (v : Sprite) : (s.writeSprite i v).bgPal = s.bgPal := rfl
@[simp] theorem State.writeSprite_bgPtSel (i : Nat) (v : Sprite) : (s.writeSprite i v).bgPtSel = s.bgPtSel := rfl
@[simp] theorem State.writeSprite_bgColor (i : Nat) (v : Sprite) : (s.writeSprite i v).bgColor = s.bgColor := rfl
@[simp] theorem State.writeSprite_spr (i : Nat) (v : Sprite) : (s.writeSprite i v).spr = Memory.set unlistedSprite s.spr i v := rfl
@[simp] theorem State.writeSprite_sprPal (i : Nat) (v : Sprite) : (s.writeSprite i v).sprPal = s.sprPal := rfl
@[simp] theorem State.writeSprite_sprPtSel (i : Nat) (v : Sprite) : (s.writeSprite i v).sprPtSel = s.sprPtSel := rfl
@[simp] theorem State.writeSprite_scrollX (i : Nat) (v : Sprite) : (s.writeSprite i v).scrollX = s.scrollX := rfl
@[simp] theorem State.writeSprite_scrollY (i : Nat) (v : Sprite) : (s.writeSprite i v).scrollY = s.scrollY := rfl
@[simp] theorem State.writeSprite_cbCtrl (i : Nat) (v : Sprite) : (s.writeSprite i v).cbCtrl = s.cbCtrl := rfl
@[simp] theorem State.writeSprite_busy (i : Nat) (v : Sprite) : (s.writeSprite i v).busy = s.busy := rfl
@[simp] theorem State.writeSprite_eventPending (i : Nat) (v : Sprite) : (s.writeSprite i v).eventPending = s.eventPending := rfl
@[simp] theorem State.writeSprite_eventX (i : Nat) (v : Sprite) : (s.writeSprite i v).eventX = s.eventX := rfl
@[simp] theorem State.writeSprite_eventY (i : Nat) (v : Sprite) : (s.writeSprite i v).eventY = s.eventY := rfl
@[simp] theorem State.writeSprite_renderW (i : Nat) (v : Sprite) : (s.writeSprite i v).renderW = s.renderW := rfl
@[simp] theorem State.writeSprite_renderH (i : Nat) (v : Sprite) : (s.writeSprite i v).renderH = s.renderH := rfl
@[simp] theorem State.writeSprite_fbLen (i : Nat) (v : Sprite) : (s.writeSprite i v).fbLen = s.fbLen := rfl
@[simp] theorem State.writeSprite_scanX (i : Nat) (v : Sprite) : (s.writeSprite i v).scanX = s.scanX := rfl
@[simp] theorem State.writeSprite_scanY (i : Nat) (v : Sprite) : (s.writeSprite i v).scanY = s.scanY := rfl
@[simp] theorem State.writeSprite_rowFront (i : Nat) (v : Sprite) : (s.writeSprite i v).rowFront = s.rowFront := rfl
@[simp] theorem State.writeSprite_rowBack (i : Nat) (v : Sprite) : (s.writeSprite i v).rowBack = s.rowBack := rfl
@[simp] theorem State.writeSprite_scanPoint (i : Nat) (v : Sprite) : (s.writeSprite i v).scanPoint = s.scanPoint := rfl
@[simp] theorem State.writeSprite_fb (i : Nat) (v : Sprite) : (s.writeSprite i v).fb = s.fb := rfl
@[simp] theorem State.writeSprite_port (i : Nat) (v : Sprite) : (s.writeSprite i v).port = s.port := rfl
@[simp] theorem State.writeSprite_responses (i : Nat) (v : Sprite) : (s.writeSprite i v).responses = s.responses := rfl
@[simp] theorem State.writeSprite_events (i : Nat) (v : Sprite) : (s.writeSprite i v).events = s.events := rfl

/-! ### setBgPal -/

@[simp] theorem State.setBgPal_mirroring (m : Table Byte) : (s.setBgPal m).mirroring = s.mirroring := rfl
@[simp] theorem State.setBgPal_pt (m : Table Byte) : (s.setBgPal m).pt = s.pt := rfl
@[simp] theorem State.setBgPal_tile (m : Table Byte) : (s.setBgPal m).tile = s.tile := rfl
@[simp] theorem State.setBgPal_block (m : Table Byte) : (s.setBgPal m).block = s.block := rfl
@[simp] theorem State.setBgPal_bgPal (m : Table Byte) : (s.setBgPal m).bgPal = m := rfl
@[simp] theorem State.setBgPal_bgPtSel (m : Table Byte) : (s.setBgPal m).bgPtSel = s.bgPtSel := rfl
@[simp] theorem State.setBgPal_bgColor (m : Table Byte) : (s.setBgPal m).bgColor = s.bgColor := rfl
@[simp] theorem State.setBgPal_spr (m : Table Byte) : (s.setBgPal m).spr = s.spr := rfl
@[simp] theorem State.setBgPal_sprPal (m : Table Byte) : (s.setBgPal m).sprPal = s.sprPal := rfl
@[simp] theorem State.setBgPal_sprPtSel (m : Table Byte) : (s.setBgPal m).sprPtSel = s.sprPtSel := rfl
@[simp] theorem State.setBgPal_scrollX (m : Table Byte) : (s.setBgPal m).scrollX = s.scrollX := rfl
@[simp] theorem State.setBgPal_scrollY (m : Table Byte) : (s.setBgPal m).scrollY = s.scrollY := rfl
@[simp] theorem State.setBgPal_cbCtrl (m : Table Byte) : (s.setBgPal m).cbCtrl = s.cbCtrl := rfl
@[simp] theorem State.setBgPal_busy (m : Table Byte) : (s.setBgPal m).busy = s.busy := rfl
@[simp] theorem State.setBgPal_eventPending (m : Table Byte) : (s.setBgPal m).eventPending = s.eventPending := rfl
@[simp] theorem State.setBgPal_eventX (m : Table Byte) : (s.setBgPal m).eventX = s.eventX := rfl
@[simp] theorem State.setBgPal_eventY (m : Table Byte) : (s.setBgPal m).eventY = s.eventY := rfl
@[simp] theorem State.setBgPal_renderW (m : Table Byte) : (s.setBgPal m).renderW = s.renderW := rfl
@[simp] theorem State.setBgPal_renderH (m : Table Byte) : (s.setBgPal m).renderH = s.renderH := rfl
@[simp] theorem State.setBgPal_fbLen (m : Table Byte) : (s.setBgPal m).fbLen = s.fbLen := rfl
@[simp] theorem State.setBgPal_scanX (m : Table Byte) : (s.setBgPal m).scanX = s.scanX := rfl
@[simp] theorem State.setBgPal_scanY (m : Table Byte) : (s.setBgPal m).scanY = s.scanY := rfl
@[simp] theorem State.setBgPal_rowFront (m : Table Byte) : (s.setBgPal m).rowFront = s.rowFront := rfl
@[simp] theorem State.setBgPal_rowBack (m : Table Byte) : (s.setBgPal m).rowBack = s.rowBack := rfl
@[simp] theorem State.setBgPal_scanPoint (m : Table Byte) : (s.setBgPal m).scanPoint = s.scanPoint := rfl
@[simp] theorem State.setBgPal_fb (m : Table Byte) : (s.setBgPal m).fb = s.fb := rfl
@[simp] theorem State.setBgPal_port (m : Table Byte) : (s.setBgPal m).port = s.port := rfl
@[simp] theorem State.setBgPal_responses (m : Table Byte) : (s.setBgPal m).responses = s.responses := rfl
@[simp] theorem State.setBgPal_events (m : Table Byte) : (s.setBgPal m).events = s.events := rfl

/-! ### setSprPal -/

@[simp] theorem State.setSprPal_mirroring (m : Table Byte) : (s.setSprPal m).mirroring = s.mirroring := rfl
@[simp] theorem State.setSprPal_pt (m : Table Byte) : (s.setSprPal m).pt = s.pt := rfl
@[simp] theorem State.setSprPal_tile (m : Table Byte) : (s.setSprPal m).tile = s.tile := rfl
@[simp] theorem State.setSprPal_block (m : Table Byte) : (s.setSprPal m).block = s.block := rfl
@[simp] theorem State.setSprPal_bgPal (m : Table Byte) : (s.setSprPal m).bgPal = s.bgPal := rfl
@[simp] theorem State.setSprPal_bgPtSel (m : Table Byte) : (s.setSprPal m).bgPtSel = s.bgPtSel := rfl
@[simp] theorem State.setSprPal_bgColor (m : Table Byte) : (s.setSprPal m).bgColor = s.bgColor := rfl
@[simp] theorem State.setSprPal_spr (m : Table Byte) : (s.setSprPal m).spr = s.spr := rfl
@[simp] theorem State.setSprPal_sprPal (m : Table Byte) : (s.setSprPal m).sprPal = m := rfl
@[simp] theorem State.setSprPal_sprPtSel (m : Table Byte) : (s.setSprPal m).sprPtSel = s.sprPtSel := rfl
@[simp] theorem State.setSprPal_scrollX (m : Table Byte) : (s.setSprPal m).scrollX = s.scrollX := rfl
@[simp] theorem State.setSprPal_scrollY (m : Table Byte) : (s.setSprPal m).scrollY = s.scrollY := rfl
@[simp] theorem State.setSprPal_cbCtrl (m : Table Byte) : (s.setSprPal m).cbCtrl = s.cbCtrl := rfl
@[simp] theorem State.setSprPal_busy (m : Table Byte) : (s.setSprPal m).busy = s.busy := rfl
@[simp] theorem State.setSprPal_eventPending (m : Table Byte) : (s.setSprPal m).eventPending = s.eventPending := rfl
@[simp] theorem State.setSprPal_eventX (m : Table Byte) : (s.setSprPal m).eventX = s.eventX := rfl
@[simp] theorem State.setSprPal_eventY (m : Table Byte) : (s.setSprPal m).eventY = s.eventY := rfl
@[simp] theorem State.setSprPal_renderW (m : Table Byte) : (s.setSprPal m).renderW = s.renderW := rfl
@[simp] theorem State.setSprPal_renderH (m : Table Byte) : (s.setSprPal m).renderH = s.renderH := rfl
@[simp] theorem State.setSprPal_fbLen (m : Table Byte) : (s.setSprPal m).fbLen = s.fbLen := rfl
@[simp] theorem State.setSprPal_scanX (m : Table Byte) : (s.setSprPal m).scanX = s.scanX := rfl
@[simp] theorem State.setSprPal_scanY (m : Table Byte) : (s.setSprPal m).scanY = s.scanY := rfl
@[simp] theorem State.setSprPal_rowFront (m : Table Byte) : (s.setSprPal m).rowFront = s.rowFront := rfl
@[simp] theorem State.setSprPal_rowBack (m : Table Byte) : (s.setSprPal m).rowBack = s.rowBack := rfl
@[simp] theorem State.setSprPal_scanPoint (m : Table Byte) : (s.setSprPal m).scanPoint = s.scanPoint := rfl
@[simp] theorem State.setSprPal_fb (m : Table Byte) : (s.setSprPal m).fb = s.fb := rfl
@[simp] theorem State.setSprPal_port (m : Table Byte) : (s.setSprPal m).port = s.port := rfl
@[simp] theorem State.setSprPal_responses (m : Table Byte) : (s.setSprPal m).responses = s.responses := rfl
@[simp] theorem State.setSprPal_events (m : Table Byte) : (s.setSprPal m).events = s.events := rfl

/-! ### writePatterns -/

@[simp] theorem State.writePatterns_mirroring (t st : Nat) (px : List Byte) : (s.writePatterns t st px).mirroring = s.mirroring := rfl
@[simp] theorem State.writePatterns_pt (t st : Nat) (px : List Byte) : (s.writePatterns t st px).pt = patternWriteFrom s.pt t st 0 px := rfl
@[simp] theorem State.writePatterns_tile (t st : Nat) (px : List Byte) : (s.writePatterns t st px).tile = s.tile := rfl
@[simp] theorem State.writePatterns_block (t st : Nat) (px : List Byte) : (s.writePatterns t st px).block = s.block := rfl
@[simp] theorem State.writePatterns_bgPal (t st : Nat) (px : List Byte) : (s.writePatterns t st px).bgPal = s.bgPal := rfl
@[simp] theorem State.writePatterns_bgPtSel (t st : Nat) (px : List Byte) : (s.writePatterns t st px).bgPtSel = s.bgPtSel := rfl
@[simp] theorem State.writePatterns_bgColor (t st : Nat) (px : List Byte) : (s.writePatterns t st px).bgColor = s.bgColor := rfl
@[simp] theorem State.writePatterns_spr (t st : Nat) (px : List Byte) : (s.writePatterns t st px).spr = s.spr := rfl
@[simp] theorem State.writePatterns_sprPal (t st : Nat) (px : List Byte) : (s.writePatterns t st px).sprPal = s.sprPal := rfl
@[simp] theorem State.writePatterns_sprPtSel (t st : Nat) (px : List Byte) : (s.writePatterns t st px).sprPtSel = s.sprPtSel := rfl
@[simp] theorem State.writePatterns_scrollX (t st : Nat) (px : List Byte) : (s.writePatterns t st px).scrollX = s.scrollX := rfl
@[simp] theorem State.writePatterns_scrollY (t st : Nat) (px : List Byte) : (s.writePatterns t st px).scrollY = s.scrollY := rfl
@[simp] theorem State.writePatterns_cbCtrl (t st : Nat) (px : List Byte) : (s.writePatterns t st px).cbCtrl = s.cbCtrl := rfl
@[simp] theorem State.writePatterns_busy (t st : Nat) (px : List Byte) : (s.writePatterns t st px).busy = s.busy := rfl
@[simp] theorem State.writePatterns_eventPending (t st : Nat) (px : List Byte) : (s.writePatterns t st px).eventPending = s.eventPending := rfl
@[simp] theorem State.writePatterns_eventX (t st : Nat) (px : List Byte) : (s.writePatterns t st px).eventX = s.eventX := rfl
@[simp] theorem State.writePatterns_eventY (t st : Nat) (px : List Byte) : (s.writePatterns t st px).eventY = s.eventY := rfl
@[simp] theorem State.writePatterns_renderW (t st : Nat) (px : List Byte) : (s.writePatterns t st px).renderW = s.renderW := rfl
@[simp] theorem State.writePatterns_renderH (t st : Nat) (px : List Byte) : (s.writePatterns t st px).renderH = s.renderH := rfl
@[simp] theorem State.writePatterns_fbLen (t st : Nat) (px : List Byte) : (s.writePatterns t st px).fbLen = s.fbLen := rfl
@[simp] theorem State.writePatterns_scanX (t st : Nat) (px : List Byte) : (s.writePatterns t st px).scanX = s.scanX := rfl
@[simp] theorem State.writePatterns_scanY (t st : Nat) (px : List Byte) : (s.writePatterns t st px).scanY = s.scanY := rfl
@[simp] theorem State.writePatterns_rowFront (t st : Nat) (px : List Byte) : (s.writePatterns t st px).rowFront = s.rowFront := rfl
@[simp] theorem State.writePatterns_rowBack (t st : Nat) (px : List Byte) : (s.writePatterns t st px).rowBack = s.rowBack := rfl
@[simp] theorem State.writePatterns_scanPoint (t st : Nat) (px : List Byte) : (s.writePatterns t st px).scanPoint = s.scanPoint := rfl
@[simp] theorem State.writePatterns_fb (t st : Nat) (px : List Byte) : (s.writePatterns t st px).fb = s.fb := rfl
@[simp] theorem State.writePatterns_port (t st : Nat) (px : List Byte) : (s.writePatterns t st px).port = s.port := rfl
@[simp] theorem State.writePatterns_responses (t st : Nat) (px : List Byte) : (s.writePatterns t st px).responses = s.responses := rfl
@[simp] theorem State.writePatterns_events (t st : Nat) (px : List Byte) : (s.writePatterns t st px).events = s.events := rfl

/-! ### respond -/

@[simp] theorem State.respond_mirroring (r : List Byte) : (s.respond r).mirroring = s.mirroring := rfl
@[simp] theorem State.respond_pt (r : List Byte) : (s.respond r).pt = s.pt := rfl
@[simp] theorem State.respond_tile (r : List Byte) : (s.respond r).tile = s.tile := rfl
@[simp] theorem State.respond_block (r : List Byte) : (s.respond r).block = s.block := rfl
@[simp] theorem State.respond_bgPal (r : List Byte) : (s.respond r).bgPal = s.bgPal := rfl
@[simp] theorem State.respond_bgPtSel (r : List Byte) : (s.respond r).bgPtSel = s.bgPtSel := rfl
@[simp] theorem State.respond_bgColor (r : List Byte) : (s.respond r).bgColor = s.bgColor := rfl
@[simp] theorem State.respond_spr (r : List Byte) : (s.respond r).spr = s.spr := rfl
@[simp] theorem State.respond_sprPal (r : List Byte) : (s.respond r).sprPal = s.sprPal := rfl
@[simp] theorem State.respond_sprPtSel (r : List Byte) : (s.respond r).sprPtSel = s.sprPtSel := rfl
@[simp] theorem State.respond_scrollX (r : List Byte) : (s.respond r).scrollX = s.scrollX := rfl
@[simp] theorem State.respond_scrollY (r : List Byte) : (s.respond r).scrollY = s.scrollY := rfl
@[simp] theorem State.respond_cbCtrl (r : List Byte) : (s.respond r).cbCtrl = s.cbCtrl := rfl
@[simp] theorem State.respond_busy (r : List Byte) : (s.respond r).busy = s.busy := rfl
@[simp] theorem State.respond_eventPending (r : List Byte) : (s.respond r).eventPending = s.eventPending := rfl
@[simp] theorem State.respond_eventX (r : List Byte) : (s.respond r).eventX = s.eventX := rfl
@[simp] theorem State.respond_eventY (r : List Byte) : (s.respond r).eventY = s.eventY := rfl
@[simp] theorem State.respond_renderW (r : List Byte) : (s.respond r).renderW = s.renderW := rfl
@[simp] theorem State.respond_renderH (r : List Byte) : (s.respond r).renderH = s.renderH := rfl
@[simp] theorem State.respond_fbLen (r : List Byte) : (s.respond r).fbLen = s.fbLen := rfl
@[simp] theorem State.respond_scanX (r : List Byte) : (s.respond r).scanX = s.scanX := rfl
@[simp] theorem State.respond_scanY (r : List Byte) : (s.respond r).scanY = s.scanY := rfl
@[simp] theorem State.respond_rowFront (r : List Byte) : (s.respond r).rowFront = s.rowFront := rfl
@[simp] theorem State.respond_rowBack (r : List Byte) : (s.respond r).rowBack = s.rowBack := rfl
@[simp] theorem State.respond_scanPoint (r : List Byte) : (s.respond r).scanPoint = s.scanPoint := rfl
@[simp] theorem State.respond_fb (r : List Byte) : (s.respond r).fb = s.fb := rfl
@[simp] theorem State.respond_port (r : List Byte) : (s.respond r).port = s.port := rfl
@[simp] theorem State.respond_responses (r : List Byte) : (s.respond r).responses = s.responses ++ [r] := rfl
@[simp] theorem State.respond_events (r : List Byte) : (s.respond r).events = s.events := rfl

/-! ### respondOk -/

@[simp] theorem State.respondOk_mirroring (r : List Byte) : (s.respondOk r).mirroring = s.mirroring := rfl
@[simp] theorem State.respondOk_pt (r : List Byte) : (s.respondOk r).pt = s.pt := rfl
@[simp] theorem State.respondOk_tile (r : List Byte) : (s.respondOk r).tile = s.tile := rfl
@[simp] theorem State.respondOk_block (r : List Byte) : (s.respondOk r).block = s.block := rfl
@[simp] theorem State.respondOk_bgPal (r : List Byte) : (s.respondOk r).bgPal = s.bgPal := rfl
@[simp] theorem State.respondOk_bgPtSel (r : List Byte) : (s.respondOk r).bgPtSel = s.bgPtSel := rfl
@[simp] theorem State.respondOk_bgColor (r : List Byte) : (s.respondOk r).bgColor = s.bgColor := rfl
@[simp] theorem State.respondOk_spr (r : List Byte) : (s.respondOk r).spr = s.spr := rfl
@[simp] theorem State.respondOk_sprPal (r : List Byte) : (s.respondOk r).sprPal = s.sprPal := rfl
@[simp] theorem State.respondOk_sprPtSel (r : List Byte) : (s.respondOk r).sprPtSel = s.sprPtSel := rfl
@[simp] theorem State.respondOk_scrollX (r : List Byte) : (s.respondOk r).scrollX = s.scrollX := rfl
@[simp] theorem State.respondOk_scrollY (r : List Byte) : (s.respondOk r).scrollY = s.scrollY := rfl
@[simp] theorem State.respondOk_cbCtrl (r : List Byte) : (s.respondOk r).cbCtrl = s.cbCtrl := rfl
@[simp] theorem State.respondOk_busy (r : List Byte) : (s.respondOk r).busy = s.busy := rfl
@[simp] theorem State.respondOk_eventPending (r : List Byte) : (s.respondOk r).eventPending = s.eventPending := rfl
@[simp] theorem State.respondOk_eventX (r : List Byte) : (s.respondOk r).eventX = s.eventX := rfl
@[simp] theorem State.respondOk_eventY (r : List Byte) : (s.respondOk r).eventY = s.eventY := rfl
@[simp] theorem State.respondOk_renderW (r : List Byte) : (s.respondOk r).renderW = s.renderW := rfl
@[simp] theorem State.respondOk_renderH (r : List Byte) : (s.respondOk r).renderH = s.renderH := rfl
@[simp] theorem State.respondOk_fbLen (r : List Byte) : (s.respondOk r).fbLen = s.fbLen := rfl
@[simp] theorem State.respondOk_scanX (r : List Byte) : (s.respondOk r).scanX = s.scanX := rfl
@[simp] theorem State.respondOk_scanY (r : List Byte) : (s.respondOk r).scanY = s.scanY := rfl
@[simp] theorem State.respondOk_rowFront (r : List Byte) : (s.respondOk r).rowFront = s.rowFront := rfl
@[simp] theorem State.respondOk_rowBack (r : List Byte) : (s.respondOk r).rowBack = s.rowBack := rfl
@[simp] theorem State.respondOk_scanPoint (r : List Byte) : (s.respondOk r).scanPoint = s.scanPoint := rfl
@[simp] theorem State.respondOk_fb (r : List Byte) : (s.respondOk r).fb = s.fb := rfl
@[simp] theorem State.respondOk_port (r : List Byte) : (s.respondOk r).port = s.port := rfl
@[simp] theorem State.respondOk_responses (r : List Byte) : (s.respondOk r).responses = s.responses ++ [0x00 :: r] := rfl
@[simp] theorem State.respondOk_events (r : List Byte) : (s.respondOk r).events = s.events := rfl

/-! ### fire -/

@[simp] theorem State.fire_mirroring (x y : Half) : (s.fire x y).mirroring = s.mirroring := rfl
@[simp] theorem State.fire_pt (x y : Half) : (s.fire x y).pt = s.pt := rfl
@[simp] theorem State.fire_tile (x y : Half) : (s.fire x y).tile = s.tile := rfl
@[simp] theorem State.fire_block (x y : Half) : (s.fire x y).block = s.block := rfl
@[simp] theorem State.fire_bgPal (x y : Half) : (s.fire x y).bgPal = s.bgPal := rfl
@[simp] theorem State.fire_bgPtSel (x y : Half) : (s.fire x y).bgPtSel = s.bgPtSel := rfl
@[simp] theorem State.fire_bgColor (x y : Half) : (s.fire x y).bgColor = s.bgColor := rfl
@[simp] theorem State.fire_spr (x y : Half) : (s.fire x y).spr = s.spr := rfl
@[simp] theorem State.fire_sprPal (x y : Half) : (s.fire x y).sprPal = s.sprPal := rfl
@[simp] theorem State.fire_sprPtSel (x y : Half) : (s.fire x y).sprPtSel = s.sprPtSel := rfl
@[simp] theorem State.fire_scrollX (x y : Half) : (s.fire x y).scrollX = s.scrollX := rfl
@[simp] theorem State.fire_scrollY (x y : Half) : (s.fire x y).scrollY = s.scrollY := rfl
@[simp] theorem State.fire_cbCtrl (x y : Half) : (s.fire x y).cbCtrl = s.cbCtrl := rfl
@[simp] theorem State.fire_busy (x y : Half) : (s.fire x y).busy = s.busy := rfl
@[simp] theorem State.fire_eventPending (x y : Half) : (s.fire x y).eventPending = true := rfl
@[simp] theorem State.fire_eventX (x y : Half) : (s.fire x y).eventX = x := rfl
@[simp] theorem State.fire_eventY (x y : Half) : (s.fire x y).eventY = y := rfl
@[simp] theorem State.fire_renderW (x y : Half) : (s.fire x y).renderW = s.renderW := rfl
@[simp] theorem State.fire_renderH (x y : Half) : (s.fire x y).renderH = s.renderH := rfl
@[simp] theorem State.fire_fbLen (x y : Half) : (s.fire x y).fbLen = s.fbLen := rfl
@[simp] theorem State.fire_scanX (x y : Half) : (s.fire x y).scanX = s.scanX := rfl
@[simp] theorem State.fire_scanY (x y : Half) : (s.fire x y).scanY = s.scanY := rfl
@[simp] theorem State.fire_rowFront (x y : Half) : (s.fire x y).rowFront = s.rowFront := rfl
@[simp] theorem State.fire_rowBack (x y : Half) : (s.fire x y).rowBack = s.rowBack := rfl
@[simp] theorem State.fire_scanPoint (x y : Half) : (s.fire x y).scanPoint = s.scanPoint := rfl
@[simp] theorem State.fire_fb (x y : Half) : (s.fire x y).fb = s.fb := rfl
@[simp] theorem State.fire_port (x y : Half) : (s.fire x y).port = s.port := rfl
@[simp] theorem State.fire_responses (x y : Half) : (s.fire x y).responses = s.responses := rfl
@[simp] theorem State.fire_events (x y : Half) : (s.fire x y).events = s.events ++ [{ x := x, y := y }] := rfl

/-! ### returnFromEvent -/

@[simp] theorem State.returnFromEvent_mirroring : s.returnFromEvent.mirroring = s.mirroring := rfl
@[simp] theorem State.returnFromEvent_pt : s.returnFromEvent.pt = s.pt := rfl
@[simp] theorem State.returnFromEvent_tile : s.returnFromEvent.tile = s.tile := rfl
@[simp] theorem State.returnFromEvent_block : s.returnFromEvent.block = s.block := rfl
@[simp] theorem State.returnFromEvent_bgPal : s.returnFromEvent.bgPal = s.bgPal := rfl
@[simp] theorem State.returnFromEvent_bgPtSel : s.returnFromEvent.bgPtSel = s.bgPtSel := rfl
@[simp] theorem State.returnFromEvent_bgColor : s.returnFromEvent.bgColor = s.bgColor := rfl
@[simp] theorem State.returnFromEvent_spr : s.returnFromEvent.spr = s.spr := rfl
@[simp] theorem State.returnFromEvent_sprPal : s.returnFromEvent.sprPal = s.sprPal := rfl
@[simp] theorem State.returnFromEvent_sprPtSel : s.returnFromEvent.sprPtSel = s.sprPtSel := rfl
@[simp] theorem State.returnFromEvent_scrollX : s.returnFromEvent.scrollX = s.scrollX := rfl
@[simp] theorem State.returnFromEvent_scrollY : s.returnFromEvent.scrollY = s.scrollY := rfl
@[simp] theorem State.returnFromEvent_cbCtrl : s.returnFromEvent.cbCtrl = s.cbCtrl := rfl
@[simp] theorem State.returnFromEvent_busy : s.returnFromEvent.busy = s.busy := rfl
@[simp] theorem State.returnFromEvent_eventPending : s.returnFromEvent.eventPending = false := rfl
@[simp] theorem State.returnFromEvent_eventX : s.returnFromEvent.eventX = s.eventX := rfl
@[simp] theorem State.returnFromEvent_eventY : s.returnFromEvent.eventY = s.eventY := rfl
@[simp] theorem State.returnFromEvent_renderW : s.returnFromEvent.renderW = s.renderW := rfl
@[simp] theorem State.returnFromEvent_renderH : s.returnFromEvent.renderH = s.renderH := rfl
@[simp] theorem State.returnFromEvent_fbLen : s.returnFromEvent.fbLen = s.fbLen := rfl
@[simp] theorem State.returnFromEvent_scanX : s.returnFromEvent.scanX = s.scanX := rfl
@[simp] theorem State.returnFromEvent_scanY : s.returnFromEvent.scanY = s.scanY := rfl
@[simp] theorem State.returnFromEvent_rowFront : s.returnFromEvent.rowFront = s.rowFront := rfl
@[simp] theorem State.returnFromEvent_rowBack : s.returnFromEvent.rowBack = s.rowBack := rfl
@[simp] theorem State.returnFromEvent_scanPoint : s.returnFromEvent.scanPoint = s.scanPoint := rfl
@[simp] theorem State.returnFromEvent_fb : s.returnFromEvent.fb = s.fb := rfl
@[simp] theorem State.returnFromEvent_port : s.returnFromEvent.port = s.port := rfl
@[simp] theorem State.returnFromEvent_responses : s.returnFromEvent.responses = s.responses := rfl
@[simp] theorem State.returnFromEvent_events : s.returnFromEvent.events = s.events := rfl

/-! ### fbWrite -/

@[simp] theorem State.fbWrite_mirroring (i : Nat) (v : Byte) : (s.fbWrite i v).mirroring = s.mirroring := by unfold State.fbWrite; split <;> rfl
@[simp] theorem State.fbWrite_pt (i : Nat) (v : Byte) : (s.fbWrite i v).pt = s.pt := by unfold State.fbWrite; split <;> rfl
@[simp] theorem State.fbWrite_tile (i : Nat) (v : Byte) : (s.fbWrite i v).tile = s.tile := by unfold State.fbWrite; split <;> rfl
@[simp] theorem State.fbWrite_block (i : Nat) (v : Byte) : (s.fbWrite i v).block = s.block := by unfold State.fbWrite; split <;> rfl
@[simp] theorem State.fbWrite_bgPal (i : Nat) (v : Byte) : (s.fbWrite i v).bgPal = s.bgPal := by unfold State.fbWrite; split <;> rfl
@[simp] theorem State.fbWrite_bgPtSel (i : Nat) (v : Byte) : (s.fbWrite i v).bgPtSel = s.bgPtSel := by unfold State.fbWrite; split <;> rfl
@[simp] theorem State.fbWrite_bgColor (i : Nat) (v : Byte) : (s.fbWrite i v).bgColor = s.bgColor := by unfold State.fbWrite; split <;> rfl
@[simp] theorem State.fbWrite_spr (i : Nat) (v : Byte) : (s.fbWrite i v).spr = s.spr := by unfold State.fbWrite; split <;> rfl
@[simp] theorem State.fbWrite_sprPal (i : Nat) (v : Byte) : (s.fbWrite i v).sprPal = s.sprPal := by unfold State.fbWrite; split <;> rfl
@[simp] theorem State.fbWrite_sprPtSel (i : Nat) (v : Byte) : (s.fbWrite i v).sprPtSel = s.sprPtSel := by unfold State.fbWrite; split <;> rfl
@[simp] theorem State.fbWrite_scrollX (i : Nat) (v : Byte) : (s.fbWrite i v).scrollX = s.scrollX := by unfold State.fbWrite; split <;> rfl
@[simp] theorem State.fbWrite_scrollY (i : Nat) (v : Byte) : (s.fbWrite i v).scrollY = s.scrollY := by unfold State.fbWrite; split <;> rfl
@[simp] theorem State.fbWrite_cbCtrl (i : Nat) (v : Byte) : (s.fbWrite i v).cbCtrl = s.cbCtrl := by unfold State.fbWrite; split <;> rfl
@[simp] theorem State.fbWrite_busy (i : Nat) (v : Byte) : (s.fbWrite i v).busy = s.busy := by unfold State.fbWrite; split <;> rfl
@[simp] theorem State.fbWrite_eventPending (i : Nat) (v : Byte) : (s.fbWrite i v).eventPending = s.eventPending := by unfold State.fbWrite; split <;> rfl
@[simp] theorem State.fbWrite_eventX (i : Nat) (v : Byte) : (s.fbWrite i v).eventX = s.eventX := by unfold State.fbWrite; split <;> rfl
@[simp] theorem State.fbWrite_eventY (i : Nat) (v : Byte) : (s.fbWrite i v).eventY = s.eventY := by unfold State.fbWrite; split <;> rfl
@[simp] theorem State.fbWrite_renderW (i : Nat) (v : Byte) : (s.fbWrite i v).renderW = s.renderW := by unfold State.fbWrite; split <;> rfl
@[simp] theorem State.fbWrite_renderH (i : Nat) (v : Byte) : (s.fbWrite i v).renderH = s.renderH := by unfold State.fbWrite; split <;> rfl
@[simp] theorem State.fbWrite_fbLen (i : Nat) (v : Byte) : (s.fbWrite i v).fbLen = s.fbLen := by unfold State.fbWrite; split <;> rfl
@[simp] theorem State.fbWrite_scanX (i : Nat) (v : Byte) : (s.fbWrite i v).scanX = s.scanX := by unfold State.fbWrite; split <;> rfl
@[simp] theorem State.fbWrite_scanY (i : Nat) (v : Byte) : (s.fbWrite i v).scanY = s.scanY := by unfold State.fbWrite; split <;> rfl
@[simp] theorem State.fbWrite_rowFront (i : Nat) (v : Byte) : (s.fbWrite i v).rowFront = s.rowFront := by unfold State.fbWrite; split <;> rfl
@[simp] theorem State.fbWrite_rowBack (i : Nat) (v : Byte) : (s.fbWrite i v).rowBack = s.rowBack := by unfold State.fbWrite; split <;> rfl
@[simp] theorem State.fbWrite_scanPoint (i : Nat) (v : Byte) : (s.fbWrite i v).scanPoint = s.scanPoint := by unfold State.fbWrite; split <;> rfl
@[simp] theorem State.fbWrite_fb (i : Nat) (v : Byte) : (s.fbWrite i v).fb = if i < s.fbLen.toNat then Memory.put s.fb i v else s.fb := by unfold State.fbWrite; split <;> rfl
@[simp] theorem State.fbWrite_port (i : Nat) (v : Byte) : (s.fbWrite i v).port = s.port := by unfold State.fbWrite; split <;> rfl
@[simp] theorem State.fbWrite_responses (i : Nat) (v : Byte) : (s.fbWrite i v).responses = s.responses := by unfold State.fbWrite; split <;> rfl
@[simp] theorem State.fbWrite_events (i : Nat) (v : Byte) : (s.fbWrite i v).events = s.events := by unfold State.fbWrite; split <;> rfl

end Sys2Proof.Machine
end

