-- ==== Sys2Proof/Laws/Tables.lean ====
section
/-! SUPPORT. What each of the PPU's tables reads after a write to it: the spec lemma of every table operation. -/

namespace Sys2Proof.Machine

/-! ### Single writes -/

theorem State.tileAt_writeTile (s : State) {n ty tx : Nat} (hy : ty < 30) (hx : tx < 32) (v : Byte) {n' ty' tx' : Nat}
    (hy' : ty' < 30) (hx' : tx' < 32) :
    (s.writeTile n ty tx v).tileAt n' ty' tx' = if n' = n ∧ ty' = ty ∧ tx' = tx then v else s.tileAt n' ty' tx' := by
  simp [State.tileAt, Memory.get_set, tileKey_inj hy' hx' hy hx]

theorem State.blockAt_writeBlock (s : State) {n yb xb : Nat} (hy : yb < 15) (hx : xb < 16) (v : BitVec 2)
    {n' yb' xb' : Nat} (hy' : yb' < 15) (hx' : xb' < 16) :
    (s.writeBlock n yb xb v).blockAt n' yb' xb' =
      if n' = n ∧ yb' = yb ∧ xb' = xb then v else s.blockAt n' yb' xb' := by
  simp [State.blockAt, Memory.get_set, blockKey_inj hy' hx' hy hx]

theorem State.sprAt_writeSprite (s : State) (i j : Nat) (v : Sprite) :
    (s.writeSprite i v).sprAt j = if j = i then v else s.sprAt j := by
  simp [State.sprAt, Memory.get_set]

/-! ### Palette writes (41_background.md R114) -/

/-- One palette write, read at any entry. -/
theorem palWriteOne_get (m : Table Byte) (pal slot : Nat) (color : Byte) {q i : Nat} (hi : i < 4) :
    Memory.get unlistedByte (palWriteOne m pal slot color) (palKey q i) =
      if q = pal % 4 ∧ i = slot % 4 then color else Memory.get unlistedByte m (palKey q i) := by
  unfold palWriteOne
  rw [Memory.get_set]
  simp [palKey_inj hi (Nat.mod_lt slot (by decide : 4 > 0))]

/-- An entry no color of the span goes to keeps its value. -/
theorem palWriteFrom_other (m : Table Byte) (pal k : Nat) (colors : List Byte) {q i : Nat} (hi : i < 4)
    (h : ∀ j, j < colors.length → ¬((pal + (k + j) / 4) % 4 = q ∧ (k + j) % 4 = i)) :
    Memory.get unlistedByte (palWriteFrom m pal k colors) (palKey q i) = Memory.get unlistedByte m (palKey q i) := by
  induction colors generalizing m k with
  | nil => rfl
  | cons c cs ih =>
    rw [palWriteFrom, ih, palWriteOne_get _ _ _ _ hi, if_neg]
    · have := h 0 (by simp)
      simp only [Nat.add_zero] at this
      omega
    · intro j hj
      have := h (j + 1) (by simp; omega)
      rw [show k + 1 + j = k + (j + 1) by omega]; exact this

/-- The last color that goes to an entry is what it holds. -/
theorem palWriteFrom_last (m : Table Byte) (pal k : Nat) (colors : List Byte) (j : Nat) (hj : j < colors.length)
    (hlast : colors.length ≤ j + 16) :
    Memory.get unlistedByte (palWriteFrom m pal k colors) (palKey ((pal + (k + j) / 4) % 4) ((k + j) % 4)) = colors[j] := by
  induction colors generalizing m k j with
  | nil => simp at hj
  | cons c cs ih =>
    rw [palWriteFrom]
    cases j with
    | zero =>
      rw [palWriteFrom_other _ _ _ _ (Nat.mod_lt _ (by decide)), palWriteOne_get _ _ _ _ (Nat.mod_lt _ (by decide))]
      · simp
      · intro j hj'
        simp only [List.length_cons] at hlast
        omega
    | succ j =>
      have := ih (palWriteOne m (pal + k / 4) (k % 4) c) (k + 1) j (by simpa using hj) (by simp at hlast; omega)
      rw [show k + (j + 1) = k + 1 + j by omega]
      simpa using this

/-- Every palette write keeps the bank canonical. -/
theorem palWriteOne_wf {m : Table Byte} (h : Memory.wf (some unlistedByte) m) (pal slot : Nat) (c : Byte) :
    Memory.wf (some unlistedByte) (palWriteOne m pal slot c) := Memory.set_wf h _ _

theorem palWriteOne_keysBelow {m : Table Byte} (h : KeysBelow 16 m) (pal slot : Nat) (c : Byte) :
    KeysBelow 16 (palWriteOne m pal slot c) :=
  Memory.set_keysBelow h (palKey_lt (Nat.mod_lt _ (by decide)) (Nat.mod_lt _ (by decide))) _

theorem palWriteFrom_wf {m : Table Byte} (h : Memory.wf (some unlistedByte) m) (pal k : Nat) (cs : List Byte) :
    Memory.wf (some unlistedByte) (palWriteFrom m pal k cs) := by
  induction cs generalizing m k with
  | nil => exact h
  | cons c cs ih => exact ih (palWriteOne_wf h _ _ _) _

theorem palWriteFrom_keysBelow {m : Table Byte} (h : KeysBelow 16 m) (pal k : Nat) (cs : List Byte) :
    KeysBelow 16 (palWriteFrom m pal k cs) := by
  induction cs generalizing m k with
  | nil => exact h
  | cons c cs ih => exact ih (palWriteOne_keysBelow h _ _ _) _

/-! ### Pattern writes (40_pattern.md R101) -/

/-- A pixel no payload byte goes to keeps its value. -/
theorem patternWriteFrom_other (m : Table (BitVec 2)) (t start k : Nat) (pixels : List Byte) {q p y x : Nat}
    (hp : p < 256) (hy : y < 8) (hx : x < 8)
    (h : q ≠ t ∨ ∀ j, j < pixels.length → ¬((start + (k + j) / 64) % 256 = p ∧ (k + j) % 64 = 8 * y + x)) :
    Memory.get unlistedSelector (patternWriteFrom m t start k pixels) (ptKey q p y x) =
      Memory.get unlistedSelector m (ptKey q p y x) := by
  induction pixels generalizing m k with
  | nil => rfl
  | cons b bs ih =>
    rw [patternWriteFrom, ih, Memory.get_set, if_neg]
    · rw [ptKey_inj hp hy hx (Nat.mod_lt _ (by decide)) (by omega) (by omega)]
      rcases h with h | h
      · exact fun e => h e.1
      · have := h 0 (by simp)
        simp only [Nat.add_zero] at this
        omega
    · refine h.imp_right fun h j hj => ?_
      have := h (j + 1) (by simp; omega)
      rw [show k + 1 + j = k + (j + 1) by omega]; exact this

/-- The last payload byte that goes to a pixel is what it holds, mod 4. -/
theorem patternWriteFrom_last (m : Table (BitVec 2)) (t start k : Nat) (pixels : List Byte) (j : Nat)
    (hj : j < pixels.length) (hlast : pixels.length ≤ j + 16384) :
    Memory.get unlistedSelector (patternWriteFrom m t start k pixels)
      (ptKey t ((start + (k + j) / 64) % 256) ((k + j) % 64 / 8) ((k + j) % 64 % 8)) = pixelValue pixels[j] := by
  induction pixels generalizing m k j with
  | nil => simp at hj
  | cons b bs ih =>
    rw [patternWriteFrom]
    cases j with
    | zero =>
      rw [patternWriteFrom_other _ _ _ _ _ (Nat.mod_lt _ (by decide)) (by omega) (by omega), Memory.get_set]
      · simp
      · right
        intro j hj'
        simp only [List.length_cons] at hlast
        omega
    | succ j =>
      have := ih (Memory.set unlistedSelector m
        (ptKey t ((start + k / 64) % 256) (k % 64 / 8) (k % 64 % 8)) (pixelValue b)) (k + 1) j (by simpa using hj)
        (by rw [List.length_cons] at hlast; omega)
      rw [show k + (j + 1) = k + 1 + j by omega]
      simpa using this

theorem patternWriteFrom_wf {m : Table (BitVec 2)} (h : Memory.wf (some unlistedSelector) m) (t start k : Nat)
    (px : List Byte) : Memory.wf (some unlistedSelector) (patternWriteFrom m t start k px) := by
  induction px generalizing m k with
  | nil => exact h
  | cons b bs ih => exact ih (Memory.set_wf h _ _) _

theorem patternWriteFrom_keysBelow {m : Table (BitVec 2)} (h : KeysBelow 32768 m) {t : Nat} (ht : t < 2) (start k : Nat)
    (px : List Byte) : KeysBelow 32768 (patternWriteFrom m t start k px) := by
  induction px generalizing m k with
  | nil => exact h
  | cons b bs ih =>
    exact ih (Memory.set_keysBelow h (ptKey_lt ht (Nat.mod_lt _ (by decide)) (by omega) (by omega)) _) _

/-! ### The framebuffer (20_memory.md R55) -/

/-- What the framebuffer reads after FBWrite. -/
theorem State.fbAt_fbWrite (s : State) (i j : Nat) (v : Byte) :
    (s.fbWrite i v).fbAt j = if j = i ∧ i < s.fbLen.toNat then some v else s.fbAt j := by
  unfold State.fbAt State.fbWrite
  split
  · simp only [Memory.find?_put]; grind
  · grind

end Sys2Proof.Machine
end

