-- ==== Sys2Proof/Laws/Exec.lean ====
section
/-! SUPPORT. What a command can do: the frame of `exec`, and when it refuses. -/

namespace Sys2Proof.Machine

/-- The parts of the state only the scan, the port and the build have: no command but RENDER writes any of them. -/
structure State.SameScan (s t : State) : Prop where
  mirroring : t.mirroring = s.mirroring
  eventX : t.eventX = s.eventX
  eventY : t.eventY = s.eventY
  scanX : t.scanX = s.scanX
  scanY : t.scanY = s.scanY
  rowFront : t.rowFront = s.rowFront
  rowBack : t.rowBack = s.rowBack
  fb : t.fb = s.fb
  port : t.port = s.port
  events : t.events = s.events

/-- A performed command keeps everything the scan and the channels own. -/
theorem exec_sameScan {i : Instr} {s t : State} (h : exec i s = .next t) : s.SameScan t := by
  cases i
  case readCtrl reg =>
    simp only [exec, execReadCtrl] at h
    split at h <;> cases h
    constructor <;> simp
  case setCallback ctrl =>
    simp only [exec, execSetCallback] at h
    split at h <;> cases h
    constructor <;> simp
  case render w hh len =>
    simp only [exec, execRender] at h
    split at h <;> cases h
    constructor <;> rfl
  case callbackReturn =>
    simp only [exec, execCallbackReturn] at h
    split at h <;> cases h
    constructor <;> simp
  all_goals
    cases h
    constructor <;> rfl

/-- The effect of a performed command on the render, the event and the responses: RENDER starts a render and owes its response;
CALLBACK_RETURN ends the event; every other command touches none of them and responds OK at once. -/
theorem exec_next_cases {i : Instr} {s t : State} (h : exec i s = .next t) :
    (∃ w hh len, i = .render w hh len ∧ s.busy = false ∧
      t = { s with busy := true, renderW := w, renderH := hh, fbLen := len, scanPoint := .rowHead 0 }) ∨
    ((∃ r, t.responses = s.responses ++ [0x00 :: r]) ∧ t.busy = s.busy ∧ t.renderW = s.renderW ∧
      t.renderH = s.renderH ∧ t.fbLen = s.fbLen ∧ t.scanPoint = s.scanPoint ∧
      (t.eventPending = s.eventPending ∨ i = .callbackReturn ∧ s.eventPending = true ∧ t.eventPending = false) ∧
      (t.cbCtrl = s.cbCtrl ∨ ∃ c, i = .setCallback c ∧ s.busy = false ∧ t.cbCtrl = ctrlStored c)) := by
  cases i
  case readCtrl reg =>
    right
    simp only [exec, execReadCtrl] at h
    split at h <;> cases h
    simp
  case setCallback ctrl =>
    right
    simp only [exec, execSetCallback] at h
    split at h <;> cases h
    simp_all
  case render w hh len =>
    left
    simp only [exec, execRender] at h
    split at h <;> cases h
    simp_all
  case callbackReturn =>
    right
    simp only [exec, execCallbackReturn] at h
    split at h <;> cases h
    simp_all
  all_goals
    right
    cases h
    simp [State.respondOk, State.respond]

/-- When a command is refused, and with which cause (60_exceptions.md R201). -/
theorem exec_refused_cases {i : Instr} {s : State} {r : Refusal} (h : exec i s = .refused r) :
    (s.busy = true ∧ r = .busy ∧ ((∃ w hh len, i = .render w hh len) ∨ ∃ ctrl, i = .setCallback ctrl)) ∨
    (s.eventPending = false ∧ r = .noEvent ∧ i = .callbackReturn) ∨
    (r = .illegalOperand ∧ ∃ reg : Byte, s.ctrlRegister reg.toNat = none ∧ i = .readCtrl reg) := by
  cases i
  case readCtrl reg =>
    simp only [exec, execReadCtrl] at h
    split at h <;> cases h
    simp_all
  case setCallback ctrl =>
    simp only [exec, execSetCallback] at h
    split at h <;> cases h
    simp_all
  case render w hh len =>
    simp only [exec, execRender] at h
    split at h <;> cases h
    simp_all
  case callbackReturn =>
    simp only [exec, execCallbackReturn] at h
    split at h <;> cases h
    simp_all
  all_goals cases h

/-- No command ends in a fault (R200). -/
theorem exec_ne_fault (i : Instr) (s : State) (f : Fault) : exec i s ≠ .fault f := nomatch f

/-- The control registers that exist are 0 to 8 (10_state.md R36). -/
theorem State.ctrlRegister_none_iff (s : State) (n : Nat) : s.ctrlRegister n = none ↔ 8 < n := by
  constructor
  · intro h
    by_contra hn
    have : n ≤ 8 := by omega
    interval_cases n <;> simp [State.ctrlRegister] at h
  · intro h
    unfold State.ctrlRegister
    split <;> first | omega | rfl

end Sys2Proof.Machine
end

