-- ==== Sys2Proof/Laws/PerInstr.lean ====
section
/-! SUPPORT. Statements about all commands, one lemma a constructor. -/

namespace Sys2Proof.Laws

/-- The family RoundTrip: no bit of the command is lost in its bytes (30_encoding.md R71, R73, R74). -/
def RoundTrip.Statement (i : Instr) : Prop :=
  i.wellFormed = true → ∀ rest, decode (encode i ++ rest) = .ok (i, rest)

theorem RoundTrip.writePattern (table start : Byte) (pixels : List Byte) :
    RoundTrip.Statement (.writePattern table start pixels) := by
  intro h rest
  have hl : pixels.length < 4294967296 := by simpa [Instr.wellFormed] using h
  show decodePat _ (table :: start :: (bytes32 _ ++ pixels ++ rest)) = _
  rw [List.append_assoc]
  simp only [bytes32, List.cons_append, List.nil_append, decodePat, le32_bytes]
  exact decodePayload_append _ (by rw [BitVec.toNat_ofNat]; exact (Nat.mod_eq_of_lt hl).symm) rest

theorem roundTrip_bulk (k : Byte → List Byte → Instr) (pal : Byte) (colors rest : List Byte)
    (h : colors.length < 65536) :
    decodeBulk k (pal :: (bytes16 (BitVec.ofNat 16 colors.length) ++ colors) ++ rest) = .ok (k pal colors, rest) := by
  rw [List.cons_append, List.append_assoc]
  simp only [bytes16, List.cons_append, List.nil_append, decodeBulk, le16_bytes]
  exact decodePayload_append _ (by rw [BitVec.toNat_ofNat]; exact (Nat.mod_eq_of_lt h).symm) rest

theorem RoundTrip.setBgPaletteBulk (pal : Byte) (colors : List Byte) :
    RoundTrip.Statement (.setBgPaletteBulk pal colors) := fun h rest =>
  roundTrip_bulk .setBgPaletteBulk pal colors rest (by simpa [Instr.wellFormed] using h)

theorem RoundTrip.setSpritePaletteBulk (pal : Byte) (colors : List Byte) :
    RoundTrip.Statement (.setSpritePaletteBulk pal colors) := fun h rest =>
  roundTrip_bulk .setSpritePaletteBulk pal colors rest (by simpa [Instr.wellFormed] using h)

theorem RoundTrip.readPatternPixel (table pattern x y : Byte) :
    RoundTrip.Statement (.readPatternPixel table pattern x y) := fun _ _ => rfl

theorem RoundTrip.setTile (nt x y pattern : Byte) : RoundTrip.Statement (.setTile nt x y pattern) := fun _ _ => rfl

theorem RoundTrip.setTilePalette (nt x y pal : Byte) : RoundTrip.Statement (.setTilePalette nt x y pal) :=
  fun _ _ => rfl

theorem RoundTrip.setBgPaletteColor (pal slot color : Byte) :
    RoundTrip.Statement (.setBgPaletteColor pal slot color) := fun _ _ => rfl

theorem RoundTrip.setBgPalette (pal c0 c1 c2 c3 : Byte) : RoundTrip.Statement (.setBgPalette pal c0 c1 c2 c3) :=
  fun _ _ => rfl

theorem RoundTrip.setBgPatternTable (index : Byte) : RoundTrip.Statement (.setBgPatternTable index) := fun _ _ => rfl

theorem RoundTrip.setBgColor (color : Byte) : RoundTrip.Statement (.setBgColor color) := fun _ _ => rfl

theorem RoundTrip.readBgPalette (pal slot : Byte) : RoundTrip.Statement (.readBgPalette pal slot) := fun _ _ => rfl

/-- Two 16-bit operands are read back. -/
theorem roundTrip_xy (k : Half → Half → Instr) (x y : Half) (rest : List Byte) :
    decodeXY k (bytes16 x ++ bytes16 y ++ rest) = .ok (k x y, rest) := by
  simp [bytes16, decodeXY]

theorem RoundTrip.bgGet (x y : Half) : RoundTrip.Statement (.bgGet x y) := fun _ rest =>
  roundTrip_xy .bgGet x y rest

theorem RoundTrip.setSprite (slot : Byte) (x y : Half) (tile pal attr : Byte) :
    RoundTrip.Statement (.setSprite slot x y tile pal attr) := by
  intro _ rest
  show decodeSpr _ (slot :: (bytes16 x ++ bytes16 y ++ [tile, pal, attr]) ++ rest) = _
  simp [bytes16, decodeSpr]

theorem RoundTrip.setSpritePosition (slot : Byte) (x y : Half) :
    RoundTrip.Statement (.setSpritePosition slot x y) := by
  intro _ rest
  show decodeSprPos _ (slot :: (bytes16 x ++ bytes16 y) ++ rest) = _
  simp [bytes16, decodeSprPos]

theorem RoundTrip.setSpritePaletteColor (pal slot color : Byte) :
    RoundTrip.Statement (.setSpritePaletteColor pal slot color) := fun _ _ => rfl

theorem RoundTrip.setSpritePalette (pal c0 c1 c2 c3 : Byte) :
    RoundTrip.Statement (.setSpritePalette pal c0 c1 c2 c3) := fun _ _ => rfl

theorem RoundTrip.setSpritePatternTable (index : Byte) : RoundTrip.Statement (.setSpritePatternTable index) :=
  fun _ _ => rfl

theorem RoundTrip.readSpritePalette (pal slot : Byte) : RoundTrip.Statement (.readSpritePalette pal slot) :=
  fun _ _ => rfl

theorem RoundTrip.readSprite (slot : Byte) : RoundTrip.Statement (.readSprite slot) := fun _ _ => rfl

theorem RoundTrip.findSprites (x y : Half) : RoundTrip.Statement (.findSprites x y) := fun _ rest =>
  roundTrip_xy .findSprites x y rest

theorem RoundTrip.findSpritesRow (y : Half) : RoundTrip.Statement (.findSpritesRow y) := by
  intro _ rest
  show decodeYU _ (bytes16 y ++ rest) = _
  simp [bytes16, decodeYU]

theorem RoundTrip.setScroll (x y : Half) : RoundTrip.Statement (.setScroll x y) := fun _ rest =>
  roundTrip_xy .setScroll x y rest

theorem RoundTrip.setCallback (ctrl : Byte) : RoundTrip.Statement (.setCallback ctrl) := fun _ _ => rfl

theorem RoundTrip.render (w h : Half) (len : Word) : RoundTrip.Statement (.render w h len) := by
  intro _ rest
  show decodeRender _ (bytes16 w ++ bytes16 h ++ bytes32 len ++ rest) = _
  simp [bytes16, bytes32, decodeRender]

theorem RoundTrip.callbackReturn : RoundTrip.Statement .callbackReturn := fun _ _ => rfl

theorem RoundTrip.readCtrl (reg : Byte) : RoundTrip.Statement (.readCtrl reg) := fun _ _ => rfl

end Sys2Proof.Laws
end

