-- ==== Sys2Proof/Laws/Search.lean ====
section
/-! SUPPORT. The sprite search (42_sprite.md R151): what it finds, how much, and what of the state it depends on. -/

namespace Sys2Proof.Machine

/-- The rest of a search adds the first hits that still fit, each to the bucket its PRIORITY_BACK attribute names. -/
theorem State.searchFrom_eq (s : State) (hit : Sprite → Bool) (slots front back : List Nat)
    (h : front.length + back.length ≤ 8) :
    s.searchFrom hit slots front back =
      (front ++ ((slots.filter fun i => hit (s.sprAt i)).take (8 - (front.length + back.length))).filter
          fun i => !attrPriorityBack (s.sprAt i).attr,
       back ++ ((slots.filter fun i => hit (s.sprAt i)).take (8 - (front.length + back.length))).filter
          fun i => attrPriorityBack (s.sprAt i).attr) := by
  induction slots generalizing front back with
  | nil => simp [State.searchFrom]
  | cons i slots ih =>
    rw [State.searchFrom]
    split
    · simp_all
    · rename_i hlt
      obtain ⟨m, hm⟩ : ∃ m, 8 - (front.length + back.length) = m + 1 := ⟨7 - (front.length + back.length), by omega⟩
      split
      · rename_i hhit
        split
        · rename_i hp
          rw [ih _ _ (by simp; omega)]
          rw [show 8 - (front.length + (back ++ [i]).length) = m by simp; omega]
          simp [hhit, hm, hp]
        · rename_i hp
          rw [ih _ _ (by simp; omega)]
          rw [show 8 - ((front ++ [i]).length + back.length) = m by simp; omega]
          simp [hhit, hm, hp]
      · rename_i hhit
        rw [ih _ _ h]
        simp [hhit]

/-- The search finds the first 8 hits in slot order, split by PRIORITY_BACK. -/
theorem State.search_eq (s : State) (hit : Sprite → Bool) :
    s.search hit =
      ((((List.range 64).filter fun i => hit (s.sprAt i)).take 8).filter fun i => !attrPriorityBack (s.sprAt i).attr,
       (((List.range 64).filter fun i => hit (s.sprAt i)).take 8).filter fun i => attrPriorityBack (s.sprAt i).attr) := by
  rw [State.search, State.searchFrom_eq _ _ _ _ _ (by simp)]; simp

theorem List.length_filter_add_filter_not {β : Type} (p : β → Bool) (l : List β) :
    (l.filter fun i => !p i).length + (l.filter p).length = l.length := by
  induction l with
  | nil => rfl
  | cons a l ih => simp only [List.filter_cons]; cases p a <;> simp <;> omega

/-- The search never finds more than 8. -/
theorem State.search_length_le (s : State) (hit : Sprite → Bool) :
    (s.search hit).1.length + (s.search hit).2.length ≤ 8 := by
  rw [State.search_eq]
  simp only [List.length_filter_add_filter_not]
  exact List.length_take_le _ _

/-- What the search finds are slot numbers. -/
theorem State.search_lt (s : State) (hit : Sprite → Bool) : ∀ i ∈ (s.search hit).1 ++ (s.search hit).2, i < 64 := by
  intro i hi
  rw [State.search_eq] at hi
  simp only [List.mem_append, List.mem_filter] at hi
  rcases hi with hi | hi <;>
    exact List.mem_range.mp (List.mem_filter.mp (List.mem_of_mem_take hi.1)).1

/-- The search reads the sprite attribute memory and nothing else. -/
theorem State.search_congr {s s' : State} (h : s'.spr = s.spr) (hit : Sprite → Bool) : s'.search hit = s.search hit := by
  have : ∀ i, s'.sprAt i = s.sprAt i := fun i => by simp [State.sprAt, h]
  simp only [State.search_eq, this]

end Sys2Proof.Machine
end

