-- ==== Sys2Proof/Laws/Scan.lean ====
section
/-! SUPPORT. What one step of the scan can do, said once, point by point. -/

namespace Sys2Proof.Machine

/-- Two states show the same picture: all that a pixel's color and the searches read is the same. -/
structure State.SamePicture (s t : State) : Prop where
  mirroring : t.mirroring = s.mirroring
  pt : t.pt = s.pt
  tile : t.tile = s.tile
  block : t.block = s.block
  bgPal : t.bgPal = s.bgPal
  bgPtSel : t.bgPtSel = s.bgPtSel
  bgColor : t.bgColor = s.bgColor
  spr : t.spr = s.spr
  sprPal : t.sprPal = s.sprPal
  sprPtSel : t.sprPtSel = s.sprPtSel
  scrollX : t.scrollX = s.scrollX
  scrollY : t.scrollY = s.scrollY

/-- The parts of the PPU's state the scan never writes (20_memory.md R58), nor does an event or its return (60_exceptions.md
R206, R207). -/
structure State.SamePpu (s t : State) : Prop where
  picture : s.SamePicture t
  cbCtrl : t.cbCtrl = s.cbCtrl
  renderW : t.renderW = s.renderW
  renderH : t.renderH = s.renderH
  fbLen : t.fbLen = s.fbLen

theorem State.SamePicture.refl (s : State) : s.SamePicture s := by constructor <;> rfl

theorem State.SamePicture.trans {s t u : State} (h : s.SamePicture t) (h' : t.SamePicture u) : s.SamePicture u := by
  obtain ⟨⟩ := h; obtain ⟨⟩ := h'; constructor <;> simp_all

theorem State.SamePpu.refl (s : State) : s.SamePpu s := ⟨.refl s, rfl, rfl, rfl, rfl⟩

theorem State.SamePpu.trans {s t u : State} (h : s.SamePpu t) (h' : t.SamePpu u) : s.SamePpu u := by
  obtain ⟨h0⟩ := h; obtain ⟨h0'⟩ := h'; constructor <;> first | exact h0.trans h0' | simp_all

/-- The head of a row in pixel mode. -/
theorem State.beginRow_pixelMode {s : State} (h : s.pixelMode = true) (y : Nat) :
    s.beginRow y = { s with scanY := BitVec.ofNat 16 y, scanPoint := .pixelHead 0 } := by
  simp [State.beginRow, h]

/-- The head of a row in row mode, at no firing point. -/
theorem State.beginRow_quiet {s : State} (h : s.pixelMode = false) {y : Nat} (hf : s.rowFires y = false) :
    s.beginRow y = { s with scanY := BitVec.ofNat 16 y, scanX := 0, scanPoint := .rowSearch } := by
  simp [State.beginRow, h, hf]

/-- The head of a row in row mode, at a firing point. -/
theorem State.beginRow_fires {s : State} (h : s.pixelMode = false) {y : Nat} (hf : s.rowFires y = true) :
    s.beginRow y =
      { s with scanY := BitVec.ofNat 16 y, scanX := 0, scanPoint := .rowSearch, eventX := 0, eventY := BitVec.ofNat 16 y,
               eventPending := true, events := s.events ++ [{ x := 0, y := BitVec.ofNat 16 y }] } := by
  simp [State.beginRow, State.fire, h, hf]

/-- The head of a pixel at no firing point. -/
theorem State.beginPixel_quiet {s : State} (h : s.pixelFires = false) (x : Nat) :
    s.beginPixel x = { s with scanX := BitVec.ofNat 16 x, scanPoint := .pixelBody } := by
  simp [State.beginPixel, h]

/-- The head of a pixel at a firing point. -/
theorem State.beginPixel_fires {s : State} (h : s.pixelFires = true) (x : Nat) :
    s.beginPixel x =
      { s with scanX := BitVec.ofNat 16 x, scanPoint := .pixelBody, eventX := BitVec.ofNat 16 x, eventY := s.scanY,
               eventPending := true, events := s.events ++ [{ x := BitVec.ofNat 16 x, y := s.scanY }] } := by
  simp [State.beginPixel, State.fire, h]

/-- The pixel's step writes at most one framebuffer entry and moves the scan point. -/
theorem State.drawPixel_eq (s : State) :
    s.drawPixel = { s with fb := s.drawPixel.fb, scanPoint := .pixelHead (s.scanX.toNat + 1) } := by
  unfold State.drawPixel State.fbWrite
  split <;> rfl

theorem State.fbAt_drawPixel (s : State) (j : Nat) :
    s.drawPixel.fbAt j =
      if j = s.scanY.toNat * s.renderW.toNat + s.scanX.toNat ∧
          s.scanY.toNat * s.renderW.toNat + s.scanX.toNat < s.fbLen.toNat
      then some (s.pixelColor s.scanX.toNat s.scanY.toNat) else s.fbAt j :=
  State.fbAt_fbWrite s _ j _

/-- One step of the scan, at each of its points. -/
theorem State.scanStep_rowHead {s : State} {y : Nat} (h : s.scanPoint = .rowHead y) :
    s.scanStep = if y < s.renderH.toNat then s.beginRow y else s.endRender := by
  simp [State.scanStep, h]

theorem State.scanStep_rowSearch {s : State} (h : s.scanPoint = .rowSearch) : s.scanStep = s.searchRow := by
  simp [State.scanStep, h]

theorem State.scanStep_pixelHead {s : State} {x : Nat} (h : s.scanPoint = .pixelHead x) :
    s.scanStep =
      if x < s.renderW.toNat then s.beginPixel x else { s with scanPoint := .rowHead (s.scanY.toNat + 1) } := by
  simp [State.scanStep, h]

theorem State.scanStep_pixelBody {s : State} (h : s.scanPoint = .pixelBody) : s.scanStep = s.drawPixel := by
  simp [State.scanStep, h]

/-- The scan writes only the framebuffer and the arbiter's and its own state (R58). -/
theorem State.scanStep_samePpu (s : State) : s.SamePpu s.scanStep := by
  unfold State.scanStep
  split
  · split
    · unfold State.beginRow
      split
      · exact ⟨⟨rfl, rfl, rfl, rfl, rfl, rfl, rfl, rfl, rfl, rfl, rfl, rfl⟩, rfl, rfl, rfl, rfl⟩
      · simp only []
        split <;>
          exact ⟨⟨rfl, rfl, rfl, rfl, rfl, rfl, rfl, rfl, rfl, rfl, rfl, rfl⟩, rfl, rfl, rfl, rfl⟩
    · exact ⟨⟨rfl, rfl, rfl, rfl, rfl, rfl, rfl, rfl, rfl, rfl, rfl, rfl⟩, rfl, rfl, rfl, rfl⟩
  · exact ⟨⟨rfl, rfl, rfl, rfl, rfl, rfl, rfl, rfl, rfl, rfl, rfl, rfl⟩, rfl, rfl, rfl, rfl⟩
  · split
    · unfold State.beginPixel
      simp only []
      split <;>
          exact ⟨⟨rfl, rfl, rfl, rfl, rfl, rfl, rfl, rfl, rfl, rfl, rfl, rfl⟩, rfl, rfl, rfl, rfl⟩
    · exact ⟨⟨rfl, rfl, rfl, rfl, rfl, rfl, rfl, rfl, rfl, rfl, rfl, rfl⟩, rfl, rfl, rfl, rfl⟩
  · rw [State.drawPixel_eq]; exact ⟨⟨rfl, rfl, rfl, rfl, rfl, rfl, rfl, rfl, rfl, rfl, rfl, rfl⟩, rfl, rfl, rfl, rfl⟩

/-- The scan takes nothing from the port (60_exceptions.md R203). -/
theorem State.scanStep_port (s : State) : s.scanStep.port = s.port := by
  unfold State.scanStep
  split
  · split
    · unfold State.beginRow
      split
      · rfl
      · simp only []
        split <;> rfl
    · rfl
  · rfl
  · split
    · unfold State.beginPixel
      simp only []
      split <;> rfl
    · rfl
  · rw [State.drawPixel_eq]

/-- The scan writes the framebuffer at a pixel's composition alone. -/
theorem State.scanStep_fb_cases (s : State) : s.scanStep.fb = s.fb ∨ s.scanPoint = .pixelBody := by
  rcases hp : s.scanPoint with y | _ | x | _
  · left
    rw [State.scanStep_rowHead hp]
    split
    · cases hm : s.pixelMode
      · cases hf : s.rowFires y
        · rw [State.beginRow_quiet hm hf]
        · rw [State.beginRow_fires hm hf]
      · rw [State.beginRow_pixelMode hm]
    · rfl
  · left; rw [State.scanStep_rowSearch hp]; rfl
  · left
    rw [State.scanStep_pixelHead hp]
    split
    · cases hf : s.pixelFires
      · rw [State.beginPixel_quiet hf]
      · rw [State.beginPixel_fires hf]
    · rfl
  · exact .inr rfl

/-- A step of the scan leaves BUSY and the responses alone, unless it is the render's end. -/
theorem State.scanStep_busy_cases (s : State) :
    (s.scanStep.busy = s.busy ∧ s.scanStep.responses = s.responses) ∨
    (s.scanStep = s.endRender ∧ ∃ y, s.scanPoint = .rowHead y ∧ s.renderH.toNat ≤ y) := by
  unfold State.scanStep
  split
  · split
    · left
      unfold State.beginRow
      split
      · exact ⟨rfl, rfl⟩
      · simp only []
        split <;> exact ⟨rfl, rfl⟩
    · right
      exact ⟨rfl, _, by assumption, by omega⟩
  · left; exact ⟨rfl, rfl⟩
  · left
    split
    · unfold State.beginPixel
      simp only []
      split <;> exact ⟨rfl, rfl⟩
    · exact ⟨rfl, rfl⟩
  · left; rw [State.drawPixel_eq]; exact ⟨rfl, rfl⟩

/-! ### What a pixel's color depends on -/

/-- The composed color, the searches and the row filter read the PPU's tables and registers and nothing else. -/
theorem State.SamePicture.composite {s t : State} (h : s.SamePicture t) (x y : Nat) (front back : List Nat) :
    t.composite x y front back = s.composite x y front back := by
  obtain ⟨h1, h2, h3, h4, h5, h6, h7, h8, h9, h10, h11, h12⟩ := h
  have hspr : ∀ i, t.sprAt i = s.sprAt i := fun i => by simp [State.sprAt, h8]
  have hpx : ∀ (a b : Nat) (c d : Int), t.px a b c d = s.px a b c d := fun a b c d => by simp [State.px, State.ptAt, h2]
  have hsp : ∀ i, t.sprPixel i x y = s.sprPixel i x y := fun i => by simp only [State.sprPixel, hspr, hpx, h10]
  have hfo : ∀ l, t.firstOpaque x y l = s.firstOpaque x y l := by
    intro l
    induction l with
    | nil => rfl
    | cons i l ih =>
      simp only [State.firstOpaque]
      rw [hsp i, ih, hspr, State.sprPalAt, State.sprPalAt, h9]
  have hbl : ∀ a b, t.bgLookup a b = s.bgLookup a b := fun a b => by
    simp only [State.bgLookup, State.tileAt, State.blockAt, hpx, h1, h3, h4, h6]
  have hsm : t.scrollMap x y = s.scrollMap x y := by simp only [State.scrollMap, h1, h11, h12]
  have hbg : t.bgOpaque x y = s.bgOpaque x y := by
    unfold State.bgOpaque
    rw [hsm]
    simp only []
    rw [hbl, State.bgPalAt, State.bgPalAt, h5]
  simp only [State.composite, hfo, hbg, h7]

theorem State.SamePicture.findSpritesPixel {s t : State} (h : s.SamePicture t) (x y : Nat) :
    t.findSpritesPixel x y = s.findSpritesPixel x y := State.search_congr h.spr _

theorem State.SamePicture.findSpritesRow {s t : State} (h : s.SamePicture t) (y : Nat) :
    t.findSpritesRow y = s.findSpritesRow y := State.search_congr h.spr _

theorem State.SamePicture.sprAt {s t : State} (h : s.SamePicture t) (i : Nat) : t.sprAt i = s.sprAt i := by
  simp [State.sprAt, h.spr]

theorem State.SamePpu.pixelMode {s t : State} (h : s.SamePpu t) : t.pixelMode = s.pixelMode := by
  simp [State.pixelMode, h.cbCtrl]

/-- The sprite lists and so the color of a pixel depend on the picture, the render's mode and the row set alone. -/
theorem State.SamePicture.pixelColor {s t : State} (h : s.SamePicture t) (hc : t.cbCtrl = s.cbCtrl)
    (hf : t.rowFront = s.rowFront) (hb : t.rowBack = s.rowBack) (x y : Nat) : t.pixelColor x y = s.pixelColor x y := by
  have hm : t.pixelMode = s.pixelMode := by simp [State.pixelMode, hc]
  simp only [State.pixelColor, State.pixelSprites, h.composite, h.findSpritesPixel, h.sprAt, hm, hf, hb]

end Sys2Proof.Machine
end

