-- ==== Sys2Proof/Laws/Step.lean ====
section
/-! SUPPORT. What a step of the machine can be, said once. -/

namespace Sys2Proof.Machine

/-- While the port holds, the step is the scan's. -/
theorem step_of_held {s : State} (h : s.held = true) : step s = .next s.scanStep := by
  simp [step, machineStep, h]

/-- With nothing on the port, nothing happens. -/
theorem step_of_portEmpty {s : State} (h : s.held = false) (hp : s.port = []) : step s = .next s := by
  simp [step, machineStep, portStep, h, hp]

/-- With bytes on the port, they are served. -/
theorem step_of_port {s : State} (h : s.held = false) (hp : s.port ≠ []) : step s = serve s (decode s.port) := by
  obtain ⟨b, bs, hb⟩ := List.exists_cons_of_ne_nil hp
  simp [step, machineStep, portStep, h, hb]

/-- A refused command has one of the cause codes. -/
theorem code_of_refused {i : Instr} {s : State} {r : Refusal} (h : exec i s = .refused r) : ∃ c, r.code? = some c := by
  rcases exec_refused_cases h with ⟨-, rfl, -⟩ | ⟨-, rfl, -⟩ | ⟨rfl, -⟩ <;> exact ⟨_, rfl⟩

/-- Everything a step can be: the scan's, none, a command performed, a command refused, a stream rejected. -/
theorem step_cases {s t : State} (h : step s = .next t) :
    (s.held = true ∧ t = s.scanStep) ∨
    (s.held = false ∧ s.port = [] ∧ t = s) ∨
    (s.held = false ∧ s.port ≠ [] ∧ ∃ i rest, decode s.port = .ok (i, rest) ∧ exec i { s with port := rest } = .next t) ∨
    (s.held = false ∧ s.port ≠ [] ∧ ∃ i rest r c, decode s.port = .ok (i, rest) ∧
      exec i { s with port := rest } = .refused r ∧ r.code? = some c ∧ t = { s with port := rest }.respond [c]) ∨
    (s.held = false ∧ s.port ≠ [] ∧ ∃ e c, decode s.port = .error e ∧ (refusalOfDecode e).code? = some c ∧
      t = { s with port := [] }.respond [c]) := by
  cases hh : s.held
  · by_cases hp : s.port = []
    · rw [step_of_portEmpty hh hp] at h
      cases h
      simp [hp]
    · rw [step_of_port hh hp] at h
      cases hd : decode s.port with
      | error e =>
        rw [hd] at h
        cases e <;> cases h <;> exact .inr (.inr (.inr (.inr ⟨rfl, hp, _, _, rfl, rfl, rfl⟩)))
      | ok p =>
        obtain ⟨i, rest⟩ := p
        rw [hd] at h
        simp only [serve] at h
        cases he : exec i { s with port := rest } with
        | next u => rw [he] at h; cases h; exact .inr (.inr (.inl ⟨rfl, hp, i, rest, rfl, he⟩))
        | fault f => cases f
        | refused r =>
          obtain ⟨c, hc⟩ := code_of_refused he
          rw [he] at h
          simp only [answer, hc] at h
          cases h
          exact .inr (.inr (.inr (.inl ⟨rfl, hp, i, rest, r, c, rfl, he, hc, rfl⟩)))
  · rw [step_of_held hh] at h
    cases h
    exact .inl ⟨rfl, rfl⟩

/-- A command that is performed is the step's outcome. -/
theorem step_of_exec_next {s t : State} {i : Instr} {rest : List Byte} (h : s.held = false)
    (hd : decode s.port = .ok (i, rest)) (he : exec i { s with port := rest } = .next t) : step s = .next t := by
  have hp : s.port ≠ [] := fun e => by rw [e] at hd; cases hd
  rw [step_of_port h hp, hd]
  simp only [serve, he, answer]

/-- A command that is refused responds its code and changes nothing else. -/
theorem step_of_exec_refused {s : State} {i : Instr} {rest : List Byte} {r : Refusal} {c : Byte} (h : s.held = false)
    (hd : decode s.port = .ok (i, rest)) (he : exec i { s with port := rest } = .refused r) (hc : r.code? = some c) :
    step s = .next ({ s with port := rest }.respond [c]) := by
  have hp : s.port ≠ [] := fun e => by rw [e] at hd; cases hd
  rw [step_of_port h hp, hd]
  simp only [serve, he, answer, hc]

/-- A stream that begins no command is answered with the cause code and dropped. -/
theorem step_of_decode_error {s : State} {e : DecodeError} (h : s.held = false) (hp : s.port ≠ [])
    (hd : decode s.port = .error e) : step s = rejectStream s e := by
  rw [step_of_port h hp, hd]; rfl

end Sys2Proof.Machine
end

