-- ==== Sys2Proof/Tests/Slice0.lean ====
section
/-! SUPPORT. The model's own tests: terms that are no commands, words written out from the spec's formats, one step of each
command with the result the spec gives (95_test_vectors.md, or the example of the command's rule), and for each statement with
hypotheses a state and operands that meet them. -/

namespace Sys2Proof.Tests

open Sys2Proof Sys2Proof.Machine

/-! ### Helpers -/

/-- The machine after reset, with two name tables side by side (the mode of 95_test_vectors.md). -/
def idle : State := State.resetWith .vertical

/-- What is sent as responses in an outcome. -/
def responsesOf : Result → List (List Byte)
  | .next t => t.responses
  | _ => []

/-- The state an outcome goes on with. -/
def stateOf : Result → State
  | .next t => t
  | _ => idle

/-- The state after one step with these bytes on the port. -/
def after (s : State) (bytes : List Byte) : State := stateOf (step { s with port := bytes })

/-- The responses of one step with these bytes on the port. -/
def responses (s : State) (bytes : List Byte) : List (List Byte) := responsesOf (step { s with port := bytes })

/-- A 2 × 2 render in progress at a point of its scan. -/
def scanning (ctrl : Byte) (p : ScanPoint) : State :=
  { idle with busy := true, renderW := 2, renderH := 2, fbLen := 4, cbCtrl := ctrl, scanPoint := p }

/-- A render stalled on the event of row 0 (HBLANK). -/
def rowEvent : State := { scanning 0x82 .rowSearch with eventPending := true }

/-- A render stalled on the event of pixel (0, 0) (ALWAYS). -/
def pixelEvent : State := { scanning 0x84 .pixelBody with eventPending := true }

/-- A sprite record. -/
def sprite (x y : Half) (tile : Byte) (pal : BitVec 2) (attr : Byte) : Sprite :=
  { x := x, y := y, tile := tile, pal := pal, attr := attr }

/-- An idle machine with something in every table: pixel (0, 0) of pattern 1 is 1, tile (0, 0) is pattern 1, block (0, 0) has
palette 1, and sprites 0 (front) and 1 (back) stand at the origin. -/
def furnished : State :=
  { idle with
    pt := [(64, 1)]
    tile := [(0, 1)]
    block := [(0, 1)]
    bgPal := [(5, 0x05)]
    sprPal := [(1, 0x11)]
    spr := [(0, sprite 0 0 1 0 0), (1, sprite 0 0 1 0 1)] }

/-! ### Terms that are no commands -/

theorem test_wf_refuses_a_long_background_bulk :
    (Instr.setBgPaletteBulk 0 (List.replicate 65536 0)).wellFormed = false := by
  simp only [Instr.wellFormed, List.length_replicate]; rfl

theorem test_wf_refuses_a_long_sprite_bulk :
    (Instr.setSpritePaletteBulk 0 (List.replicate 65536 0)).wellFormed = false := by
  simp only [Instr.wellFormed, List.length_replicate]; rfl

theorem test_wf_refuses_a_long_pattern_upload :
    (Instr.writePattern 0 0 (List.replicate 4294967296 0)).wellFormed = false := by
  simp only [Instr.wellFormed, List.length_replicate]; rfl

theorem test_wf_accepts_the_longest_bulk :
    (Instr.setBgPaletteBulk 0 (List.replicate 65535 0)).wellFormed = true := by
  simp only [Instr.wellFormed, List.length_replicate]; rfl

/-! ### Decoding: bytes written out from the formats of 30_encoding.md R73 and the opcodes of R74 -/

theorem test_decode_write_pattern :
    decode [0x10, 0x00, 0x05, 0x02, 0x00, 0x00, 0x00, 0x03, 0x01] = .ok (.writePattern 0 5 [3, 1], []) := by rfl

theorem test_decode_read_pattern_pixel :
    decode [0x11, 0x01, 0x08, 0x09, 0x0A] = .ok (.readPatternPixel 1 8 9 10, []) := by rfl

theorem test_decode_set_tile : decode [0x20, 0x01, 0x21, 0x1F, 0x07] = .ok (.setTile 1 33 31 7, []) := by rfl

theorem test_decode_set_tile_palette :
    decode [0x21, 0x00, 0x03, 0x05, 0x06] = .ok (.setTilePalette 0 3 5 6, []) := by rfl

theorem test_decode_set_bg_palette_color :
    decode [0x22, 0x02, 0x03, 0x30] = .ok (.setBgPaletteColor 2 3 0x30, []) := by rfl

theorem test_decode_set_bg_palette :
    decode [0x23, 0x01, 0x0F, 0x01, 0x02, 0x03] = .ok (.setBgPalette 1 0x0F 1 2 3, []) := by rfl

theorem test_decode_set_bg_palette_bulk :
    decode [0x24, 0x03, 0x02, 0x00, 0x09, 0x08, 0x07] = .ok (.setBgPaletteBulk 3 [9, 8], [7]) := by rfl

theorem test_decode_set_bg_pattern_table : decode [0x25, 0x01] = .ok (.setBgPatternTable 1, []) := by rfl

theorem test_decode_set_bg_color : decode [0x26, 0x0F] = .ok (.setBgColor 0x0F, []) := by rfl

theorem test_decode_read_bg_palette : decode [0x27, 0x01, 0x02] = .ok (.readBgPalette 1 2, []) := by rfl

theorem test_decode_bg_get : decode [0x28, 0x2C, 0x01, 0x03, 0x00] = .ok (.bgGet 300 3, []) := by rfl

theorem test_decode_set_sprite :
    decode [0x30, 0x03, 0xFC, 0xFF, 0x0A, 0x00, 0x20, 0x01, 0x01] = .ok (.setSprite 3 (-4) 10 0x20 1 1, []) := by rfl

theorem test_decode_set_sprite_position :
    decode [0x31, 0x43, 0x64, 0x00, 0xF8, 0xFF] = .ok (.setSpritePosition 67 100 (-8), []) := by rfl

theorem test_decode_set_sprite_palette_color :
    decode [0x32, 0x00, 0x01, 0x16] = .ok (.setSpritePaletteColor 0 1 0x16, []) := by rfl

theorem test_decode_set_sprite_palette :
    decode [0x33, 0x00, 0x01, 0x16, 0x02, 0x03] = .ok (.setSpritePalette 0 1 0x16 2 3, []) := by rfl

theorem test_decode_set_sprite_palette_bulk :
    decode [0x34, 0x02, 0x05, 0x00, 0x09, 0x08, 0x07, 0x06, 0x05] = .ok (.setSpritePaletteBulk 2 [9, 8, 7, 6, 5], []) := by rfl

theorem test_decode_set_sprite_pattern_table : decode [0x35, 0x01] = .ok (.setSpritePatternTable 1, []) := by rfl

theorem test_decode_read_sprite_palette : decode [0x36, 0x00, 0x01] = .ok (.readSpritePalette 0 1, []) := by rfl

theorem test_decode_read_sprite : decode [0x37, 0x03] = .ok (.readSprite 3, []) := by rfl

theorem test_decode_find_sprites : decode [0x38, 0x05, 0x00, 0x0C, 0x01] = .ok (.findSprites 5 268, []) := by rfl

theorem test_decode_find_sprites_row : decode [0x39, 0x0A, 0x01] = .ok (.findSpritesRow 266, []) := by rfl

theorem test_decode_set_scroll : decode [0x40, 0xFF, 0xFF, 0xF0, 0x00] = .ok (.setScroll (-1) 240, []) := by rfl

theorem test_decode_set_callback : decode [0x41, 0x82] = .ok (.setCallback 0x82, []) := by rfl

theorem test_decode_render :
    decode [0x42, 0x00, 0x01, 0xF0, 0x00, 0x00, 0xF0, 0x01, 0x02] = .ok (.render 256 240 0x0201F000, []) := by rfl

theorem test_decode_callback_return : decode [0x43, 0x43] = .ok (.callbackReturn, [0x43]) := by rfl

theorem test_decode_read_ctrl : decode [0x44, 0x06] = .ok (.readCtrl 6, []) := by rfl

/-- A stream that ends inside a command (V-RF8, V-RF9). -/
theorem test_decode_refuses_a_cut_command :
    decode [0x30, 0x00, 0x00] = .error .malformed ∧ decode [0x24, 0x00, 0x04, 0x00, 0x01, 0x02] = .error .malformed :=
  ⟨rfl, rfl⟩

/-- The opcode table's numbering: byte 0 in bits 7:0. -/
theorem test_table_word_set_tile : decodeTableWord 40 0x071F210120 = some (.setTile 1 33 31 7) := by decide

/-- A count in the word asks for payload bytes, which are 0 above the row's bits. -/
theorem test_table_word_bulk : decodeTableWord 32 0x00020324 = some (.setBgPaletteBulk 3 [0, 0]) := by decide

theorem test_table_word_reserved : decodeTableWord 8 0x12 = none := by decide

/-- The placed command is the one the next step runs, also while a render holds the port. -/
theorem test_placed_command_runs :
    (stateOf (step (idle.withFetchWord 16 0x0F26))).bgColor = 0x0F ∧
    (stateOf (step ((scanning 0x82 .rowSearch).withFetchWord 16 0x0F26))).bgColor = 0x0F := by decide

/-! ### Pattern storage -/

/-- V-PT2: values mod 4, row-major. -/
theorem test_write_pattern_stores_mod_four :
    (List.range 10).map (fun o =>
      (after idle [0x10, 0, 0, 10, 0, 0, 0, 0, 1, 2, 3, 4, 5, 6, 7, 8, 9]).ptAt 0 0 (o / 8) (o % 8)) =
    [0, 1, 2, 3, 0, 1, 2, 3, 0, 1] := by decide

/-- R101: `table = 3` writes table 1, and the upload at pattern 255 starts there. -/
theorem test_write_pattern_wraps_the_table :
    (after idle [0x10, 3, 255, 1, 0, 0, 0, 7]).ptAt 1 255 0 0 = 3 := by decide

/-- V-PT4: the pixel coordinates wrap modulo 8, (9, 8) reads (1, 0). -/
theorem test_read_pattern_pixel_wraps :
    responses { idle with pt := [(16897, 2)] } [0x11, 0x01, 0x08, 0x09, 0x08] = [[0x00, 0x02]] := by decide

/-! ### Background -/

/-- The example of R112. -/
theorem test_set_tile : (after idle [0x20, 0x01, 0x21, 0x1F, 0x07]).tileAt 1 1 1 = 7 := by decide

/-- V-BG6: row 255 wraps to row 15. -/
theorem test_set_tile_row_wraps : (after idle [0x20, 0x00, 0x00, 0xFF, 0x01]).tileAt 0 15 0 = 1 := by decide

/-- The example of R113. -/
theorem test_set_tile_palette : (after idle [0x21, 0x00, 0x03, 0x05, 0x06]).blockAt 0 2 1 = 2 := by decide

/-- V-BK4. -/
theorem test_set_tile_palette_wraps : (after idle [0x21, 0x00, 0x21, 0x1F, 0x01]).blockAt 0 0 0 = 1 := by decide

/-- V-PA5: palette 4 and slot 5 wrap. -/
theorem test_set_bg_palette_color : (after idle [0x22, 0x04, 0x05, 0x33]).bgPalAt 0 1 = 0x33 := by decide

/-- The example of R116. -/
theorem test_set_bg_palette :
    (List.range 4).map ((after idle [0x23, 0x01, 0x0F, 0x01, 0x02, 0x03]).bgPalAt 1) = [0x0F, 1, 2, 3] := by decide

/-- V-PA1: the span wraps from palette 3 to palette 0. -/
theorem test_set_bg_palette_bulk :
    (after idle [0x24, 3, 8, 0, 1, 2, 3, 4, 5, 6, 7, 8]).bgPal =
      [(0, 5), (1, 6), (2, 7), (3, 8), (12, 1), (13, 2), (14, 3), (15, 4)] := by decide

/-- V-PA2: the last, partial palette keeps its other entries. -/
theorem test_set_bg_palette_bulk_partial :
    (after idle [0x24, 1, 6, 0, 9, 9, 9, 9, 9, 9]).bgPal = [(4, 9), (5, 9), (6, 9), (7, 9), (8, 9), (9, 9)] := by decide

/-- R119: `index = 3` selects table 1. -/
theorem test_set_bg_pattern_table :
    (after idle [0x25, 0x03]).bgPtSel = 1 ∧ (after idle [0x25, 0x03]).sprPtSel = 0 := by decide

theorem test_set_bg_color : (after idle [0x26, 0x0F]).bgColor = 0x0F := by decide

/-- R118: `slot = 4` reads entry 0. -/
theorem test_read_bg_palette :
    responses { idle with bgPal := [(4, 0x0F)], sprPal := [(4, 0x21)] } [0x27, 0x05, 0x04] = [[0x00, 0x0F]] := by decide

/-- V-BG2: (812, 243) is (300, 3), tile column 5 of name table 1. -/
theorem test_bg_get_wraps :
    responses { idle with tile := [(965, 9)] } [0x28, 0x2C, 0x03, 0xF3, 0x00] = [[0x00, 0x09, 0x00]] := by decide

/-- V-BG3, HORIZONTAL. -/
theorem test_bg_get_horizontal :
    responses (after (after (State.resetWith .horizontal) [0x20, 0x01, 0x00, 0x1D, 0x04]) [0x21, 0x01, 0x00, 0x1D, 0x03])
      [0x28, 0x00, 0x00, 0xDF, 0x01] = [[0x00], [0x00], [0x00, 0x04, 0x03]] := by decide

/-! ### Sprites -/

/-- The example of R140. -/
theorem test_set_sprite :
    (after idle [0x30, 0x03, 0xFC, 0xFF, 0x0A, 0x00, 0x20, 0x01, 0x01]).sprAt 3 = sprite (-4) 10 0x20 1 1 := by decide

/-- V-SP2: slot 65 is slot 1, PAL 5 is 1, ATTR is stored whole. -/
theorem test_set_sprite_wraps :
    (after idle [0x30, 65, 1, 0, 2, 0, 3, 5, 0xFE]).sprAt 1 = sprite 1 2 3 1 0xFE := by decide

/-- The example of R141. -/
theorem test_set_sprite_position :
    (after { idle with spr := [(3, sprite (-4) 10 0x20 1 1)] } [0x31, 0x43, 0x64, 0x00, 0xF8, 0xFF]).sprAt 3 =
      sprite 100 (-8) 0x20 1 1 := by decide

/-- V-PA6: the sprite bank alone is written. -/
theorem test_set_sprite_palette_color :
    (after idle [0x32, 0x07, 0x07, 0x44]).sprPal = [(15, 0x44)] ∧ (after idle [0x32, 0x07, 0x07, 0x44]).bgPal = [] := by decide

theorem test_set_sprite_palette :
    (after idle [0x33, 0x00, 0x00, 0x16, 0x00, 0x00]).sprPal = [(1, 0x16)] := by decide

/-- The example of R144. -/
theorem test_set_sprite_palette_bulk :
    (after idle [0x34, 0x02, 0x05, 0x00, 9, 8, 7, 6, 5]).sprPal = [(8, 9), (9, 8), (10, 7), (11, 6), (12, 5)] := by decide

theorem test_set_sprite_pattern_table :
    (after idle [0x35, 0x01]).sprPtSel = 1 ∧ (after idle [0x35, 0x01]).bgPtSel = 0 := by decide

/-- R145: `pal = 7, slot = 7` reads entry 3 of palette 3. -/
theorem test_read_sprite_palette :
    responses { idle with sprPal := [(15, 0x44)] } [0x36, 0x07, 0x07] = [[0x00, 0x44]] := by decide

/-- V-SP1. -/
theorem test_read_sprite_at_reset : responses idle [0x37, 0x00] = [[0x00, 0, 0, 0, 0, 0xFF, 0, 0]] := by decide

/-- The example of R147. -/
theorem test_read_sprite :
    responses { idle with spr := [(3, sprite 100 (-8) 0x20 1 1)] } [0x37, 0x03] =
      [[0x00, 0x64, 0x00, 0xF8, 0xFF, 0x20, 0x01, 0x01]] := by decide

/-- The example of R152. -/
theorem test_find_sprites :
    responses { idle with spr := [(2, sprite 0 10 1 0 0), (5, sprite 4 12 1 0 1)] } [0x38, 5, 0, 12, 0] =
      [[0x00, 0x01, 0x02, 0x01, 0x05]] := by decide

/-- V-SP6: no 16-bit wrap of `X + 8`. -/
theorem test_find_sprites_right_edge :
    responses { idle with spr := [(0, sprite 32767 0 1 0 0)] } [0x38, 0x06, 0x80, 0, 0] = [[0x00, 0x01, 0x00, 0x00]] ∧
    responses { idle with spr := [(0, sprite 32767 0 1 0 0)] } [0x38, 0x07, 0x80, 0, 0] = [[0x00, 0x00, 0x00]] := by decide

/-- V-SP7 (the source's scenario B): the ninth sprite of a row is dropped. -/
theorem test_find_sprites_row_cap :
    responses { idle with spr := (List.range 9).map fun i => (i, sprite (BitVec.ofNat 16 (2 * i)) 10 1 0 0) }
      [0x39, 0x0A, 0x00] = [[0x00, 8, 0, 1, 2, 3, 4, 5, 6, 7, 0]] := by decide

/-- V-SP5: a row above the screen's top edge still hits while the box reaches it. -/
theorem test_find_sprites_row_edge :
    responses { idle with spr := [(0, sprite (-3) (-2) 1 0 0)] } [0x39, 5, 0] = [[0x00, 0x01, 0x00, 0x00]] ∧
    responses { idle with spr := [(0, sprite (-3) (-2) 1 0 0)] } [0x39, 6, 0] = [[0x00, 0x00, 0x00]] := by decide

/-! ### Compositor, callback, control registers -/

/-- The example of R170. -/
theorem test_set_scroll :
    (after idle [0x40, 0xFF, 0xFF, 0xF0, 0x00]).scrollX.toInt = -1 ∧
    (after idle [0x40, 0xFF, 0xFF, 0xF0, 0x00]).scrollY.toInt = 240 := by decide

/-- 90_conflicts.md C2: a raw sum that is a negative multiple of the extent maps to 0. -/
theorem test_scroll_map_negative_multiple :
    ({ idle with scrollX := -512, scrollY := -240 } : State).scrollMap 0 0 = (0, 0) ∧
    ({ idle with scrollX := -1 } : State).scrollMap 0 0 = (511, 0) := by decide

/-- R173: the reserved bits are dropped. -/
theorem test_set_callback : (after idle [0x41, 0xFF]).cbCtrl = 0x87 := by decide

/-- V-RF11. -/
theorem test_set_callback_refused_in_an_event :
    after rowEvent [0x41, 0x00] = { rowEvent with responses := [[0x02]] } := by decide

theorem test_render_starts :
    (after idle [0x42, 3, 0, 2, 0, 4, 0, 0, 0]) = { idle with busy := true, renderW := 3, renderH := 2, fbLen := 4 } := by decide

/-- V-RF10. -/
theorem test_render_refused_in_an_event :
    after pixelEvent [0x42, 2, 0, 2, 0, 4, 0, 0, 0] = { pixelEvent with responses := [[0x02]] } := by decide

/-- The example of R185. -/
theorem test_callback_return : after rowEvent [0x43] = { rowEvent with eventPending := false, responses := [[0x00]] } := by decide

/-- V-RF5. -/
theorem test_callback_return_refused_when_idle : responses idle [0x43] = [[0x03]] := by decide

/-- R186: STATUS during an event, and a negative scroll as 16 bits. -/
theorem test_read_ctrl :
    responses rowEvent [0x44, 6] = [[0x00, 0x03, 0x00]] ∧
    responses { idle with scrollX := -1 } [0x44, 3] = [[0x00, 0xFF, 0xFF]] := by decide

/-- V-RF6, V-RF7. -/
theorem test_read_ctrl_refused : responses idle [0x44, 9] = [[0x04]] ∧ responses idle [0x44, 0xFF] = [[0x04]] := by decide

/-- V-RF3: a reserved opcode stops the decoder. -/
theorem test_reserved_opcode_stops_the_decoder :
    after idle [0x12, 0, 0, 0, 0] = { idle with responses := [[0x01]] } := by decide

/-! ### The scan -/

/-- R181: with VBLANK only, row 0 fires and row 1 does not. -/
theorem test_vblank_fires_at_row_zero_only :
    (stateOf (step (scanning 0x81 (.rowHead 0)))).events = [{ x := 0, y := 0 }] ∧
    (stateOf (step (scanning 0x81 (.rowHead 1)))).events = [] := by decide

/-- R181, R173: no event with ENABLE clear, yet ALWAYS still selects pixel mode. -/
theorem test_always_without_enable :
    stateOf (step (scanning 0x04 (.rowHead 0))) = scanning 0x04 (.pixelHead 0) ∧
    (stateOf (step (scanning 0x04 (.pixelHead 0)))).events = [] := by decide

/-- R55: entry 3 of a framebuffer of length 3 is dropped. -/
theorem test_pixel_past_the_framebuffer_is_dropped :
    (stateOf (step { scanning 0x00 .pixelBody with scanX := 1, scanY := 1, fbLen := 3, bgColor := 0x20 })).fb = [] ∧
    (stateOf (step { scanning 0x00 .pixelBody with scanX := 1, scanY := 1, bgColor := 0x20 })).fb = [(3, 0x20)] := by decide

/-- R172: a front sprite covers the background (V-CO4), an opaque background covers a back sprite (V-CO5). -/
theorem test_composite_order :
    furnished.composite 0 0 [0] [1] = 0x11 ∧ furnished.composite 0 0 [] [1] = 0x05 ∧
    ({ furnished with tile := [] } : State).composite 0 0 [] [1] = 0x11 := by decide

/-- V-CO13: no flip. The flipped pixel of pattern 1 would be (7, 7), which is transparent. -/
theorem test_flip_has_no_effect :
    ({ furnished with spr := [(0, sprite 0 0 1 0 0x06)] } : State).composite 0 0 [0] [] = 0x11 := by decide

/-! ### Witnesses: each meets all hypotheses of the statement it names -/

theorem witness_decode_of_encode :
    (Instr.writePattern 0 5 [3, 1]).wellFormed = true ∧ (Instr.setSpritePaletteBulk 3 []).wellFormed = true ∧
    (Instr.render 0xFFFF 0 0xFFFFFFFF).wellFormed = true := by decide

theorem witness_decoded_bytes : decode [0x24, 3, 2, 0, 9, 8, 7] = .ok (.setBgPaletteBulk 3 [9, 8], [7]) := rfl

theorem witness_reserved_opcodes :
    ([0x00, 0x0F, 0x12, 0x1F, 0x29, 0x2F, 0x3A, 0x3F, 0x45, 0xFF] : List Byte).all (fun op =>
      match decode [op, 0x43] with
      | .error .illegalOpcode => true
      | _ => false) = true ∧
    ({ idle with port := [0x12, 0x43] } : State).held = false ∧ decode [0x12, 0x43] = .error .illegalOpcode := ⟨rfl, rfl, rfl⟩

/-- The first and the last place a command can be cut at. -/
theorem witness_cut_commands :
    encode (.setSprite 3 (-4) 10 0x20 1 1) = [0x30] ++ [0x03, 0xFC, 0xFF, 0x0A, 0x00, 0x20, 0x01, 0x01] ∧
    encode (.setSprite 3 (-4) 10 0x20 1 1) = [0x30, 0x03, 0xFC, 0xFF, 0x0A, 0x00, 0x20, 0x01] ++ [0x01] ∧
    (Instr.setSprite 3 (-4) 10 0x20 1 1).wellFormed = true ∧ ({ idle with port := [0x30] } : State).held = false := by decide

/-- A state with something in every table, stalled on a row's event. -/
def stalled : State :=
  { furnished with
    busy := true
    renderW := 2
    renderH := 2
    fbLen := 4
    cbCtrl := 0x82
    scanPoint := .rowSearch
    eventPending := true
    rowFront := [0]
    rowBack := [1]
    fb := [(3, 0x20)] }

/-- That state meets the invariant and takes a step. -/
theorem witness_invariant : stalled.Inv ∧ ∃ t, step stalled = .next t := by
  refine ⟨⟨⟨by decide, by decide, by decide, by decide, by decide, by decide, by decide⟩, ?_, ⟨by decide, by decide⟩, ?_, ?_⟩, _, rfl⟩
  · show _ = _; decide
  · exact fun _ => ⟨by decide, by decide, by decide⟩
  · exact fun _ => ⟨by decide, by decide, by decide, by decide, .inr ⟨by decide, by decide⟩⟩

/-- So does a scan in pixel mode. -/
theorem witness_invariant_pixel_mode :
    (scanning 0x84 (.pixelHead 1)).Inv ∧ ∃ t, step (scanning 0x84 (.pixelHead 1)) = .next t := by
  refine ⟨⟨⟨by decide, by decide, by decide, by decide, by decide, by decide, by decide⟩, ?_, ⟨by decide, by decide⟩, ?_, ?_⟩, _, rfl⟩
  · show _ = _; decide
  · exact fun _ => ⟨by decide, by decide⟩
  · exact fun h => absurd h (by decide)

theorem witness_step_runs :
    ({ rowEvent with port := [0x26, 0x0F, 0x43] } : State).held = false ∧
    decode [0x26, 0x0F, 0x43] = .ok (.setBgColor 0x0F, [0x43]) ∧
    ∃ t, exec (.setBgColor 0x0F) { rowEvent with port := [0x43] } = .next t := ⟨rfl, rfl, _, rfl⟩

/-- One witness for each cause. -/
theorem witness_refused_commands :
    (rowEvent.held = false ∧ exec (.setCallback 0) { rowEvent with port := [] } = .refused .busy) ∧
    (idle.held = false ∧ exec .callbackReturn { idle with port := [] } = .refused .noEvent) ∧
    exec (.readCtrl 9) { idle with port := [] } = .refused .illegalOperand := ⟨⟨rfl, rfl⟩, ⟨rfl, rfl⟩, rfl⟩

/-- Inside the scan, and at its end. -/
theorem witness_port_holds :
    ((scanning 0 (.rowHead 1)).busy = true ∧ (scanning 0 (.rowHead 1)).eventPending = false) ∧
    ((stateOf (step (scanning 0 (.rowHead 1)))).busy = true ∧ (stateOf (step (scanning 0 (.rowHead 2)))).busy = false) := by
  decide

theorem witness_nothing_happens :
    (idle.held = false ∧ idle.port = []) ∧ (rowEvent.held = false ∧ rowEvent.port = []) := by decide

/-- A command, a refused command, a scan step that ends the render. -/
theorem witness_one_response :
    (∃ t, step { idle with port := [0x26, 0x0F] } = .next t ∧ t.responses.length = 1) ∧
    (∃ t, step { idle with port := [0x43] } = .next t ∧ t.responses.length = 1) ∧
    (∃ t, step (scanning 0 (.rowHead 2)) = .next t ∧ t.responses.length = 1 ∧ t.busy = false) :=
  ⟨⟨_, rfl, rfl⟩, ⟨_, rfl, rfl⟩, ⟨_, rfl, rfl, rfl⟩⟩

theorem witness_hold_lifts : (scanning 0 (.rowHead 0)).held = true ∧ (scanning 0x84 .pixelBody).held = true := by decide

theorem witness_mirroring_step : ∃ t, step { idle with port := [0x26, 0x0F] } = .next t := ⟨_, rfl⟩

theorem witness_cb_ctrl_changes :
    ∃ t, step { idle with port := [0x41, 0x82] } = .next t ∧ t.cbCtrl ≠ ({ idle with port := [0x41, 0x82] } : State).cbCtrl :=
  ⟨_, rfl, by decide⟩

/-- BUSY set, and BUSY cleared. -/
theorem witness_busy_follows :
    (∃ t, step { idle with port := [0x42, 2, 0, 2, 0, 4, 0, 0, 0] } = .next t ∧ t.busy = true) ∧
    (∃ t, step (scanning 0 (.rowHead 2)) = .next t ∧ t.busy = false) := ⟨⟨_, rfl, rfl⟩, ⟨_, rfl, rfl⟩⟩

theorem witness_queries :
    (∃ t, exec (.readCtrl 8) rowEvent = .next t) ∧ ∃ t, exec (.readSprite 0) furnished = .next t := ⟨⟨_, rfl⟩, ⟨_, rfl⟩⟩

/-- On the state of `witness_invariant_pixel_mode`, which meets the invariant. -/
theorem witness_mutators :
    (∃ t u, exec (.setTile 1 33 31 7) (scanning 0x84 (.pixelHead 1)) = .next t ∧ exec (.setTile 1 33 31 7) t = .next u) ∧
    ∃ t u, exec (.writePattern 0 255 [1, 2]) (scanning 0x84 (.pixelHead 1)) = .next t ∧
      exec (.writePattern 0 255 [1, 2]) t = .next u := ⟨⟨_, _, rfl, rfl⟩, ⟨_, _, rfl, rfl⟩⟩

/-- The entry the pixel writes, and one it leaves alone, over another framebuffer. -/
theorem witness_framebuffer_step :
    (∃ t, step { scanning 0 .pixelBody with bgColor := 0x20 } = .next t ∧ t.fb = [(0, 0x20)]) ∧
    ∃ t, step { scanning 0 .pixelBody with bgColor := 0x20, fb := [(0, 0xAA), (3, 0xAA)] } = .next t ∧
      t.fb = [(0, 0x20), (3, 0xAA)] := ⟨⟨_, rfl, by decide⟩, ⟨_, rfl, by decide⟩⟩

/-- The count field, the first and the last payload byte (all within 16384 of the end), and a pixel no byte reaches. -/
theorem witness_write_pattern :
    ([3, 1] : List Byte).length = ((0 : Byte) ++ (0 : Byte) ++ (0 : Byte) ++ (2 : Byte) : BitVec 32).toNat ∧ 0 < ([3, 1] : List Byte).length ∧
    1 < ([3, 1] : List Byte).length ∧ ([3, 1] : List Byte).length ≤ 0 + 16384 ∧
    (∀ k, k < ([3, 1] : List Byte).length → ¬((5 + k / 64) % 256 = 5 ∧ k % 64 = 8 * 7 + 7)) := by decide

theorem witness_name_table_selection :
    (511 < extentW .vertical ∧ 239 < extentH .vertical ∧ ntSelect .vertical 511 239 = (1, 255, 239)) ∧
    (255 < extentW .horizontal ∧ 479 < extentH .horizontal ∧ ntSelect .horizontal 255 479 = (1, 255, 239)) ∧
    (255 < extentW .single ∧ 239 < extentH .single ∧ ntSelect .single 255 239 = (0, 255, 239)) := by decide

theorem witness_background_lookup : ntSelect furnished.mirroring 300 3 = (1, 44, 3) := by decide

/-- The last tile and the last block. -/
theorem witness_tile_and_block_indices : 29 < 30 ∧ 31 < 32 ∧ 14 < 15 ∧ 15 < 16 := by decide

/-- A pixel inside the block written, and one outside it. -/
theorem witness_two_by_two_tiles :
    (∃ t, exec (.setTilePalette 0 3 5 6) idle = .next t) ∧
    (31 < extentW idle.mirroring ∧ 47 < extentH idle.mirroring ∧ ntSelect idle.mirroring 31 47 = (0, 31, 47)) ∧
    (32 < extentW idle.mirroring ∧ ntSelect idle.mirroring 32 47 = (0, 32, 47)) := ⟨⟨_, rfl⟩, by decide, by decide⟩

/-- Colors 0 and 15 of a span of 16, and an entry a span of 6 does not reach. -/
theorem witness_palette_bulk :
    ([9, 8] : List Byte).length = ((0 : Byte) ++ (2 : Byte) : BitVec 16).toNat ∧
    (0 < (List.replicate 16 (9 : Byte)).length ∧ (List.replicate 16 (9 : Byte)).length ≤ 0 + 16) ∧
    (15 < (List.replicate 16 (9 : Byte)).length ∧ (List.replicate 16 (9 : Byte)).length ≤ 15 + 16) ∧
    ∀ k, k < (List.replicate 6 (9 : Byte)).length → ¬((1 + k / 4) % 4 = 2 ∧ k % 4 = 3) := by decide

theorem witness_palette_round_trip :
    (3 : Byte).toNat < 4 ∧ (∃ t, exec (.setBgPalette 6 1 2 3 4) idle = .next t) ∧
    ∃ t, exec (.setSpritePalette 6 1 2 3 4) idle = .next t := ⟨by decide, ⟨_, rfl⟩, ⟨_, rfl⟩⟩

/-- Each mirroring mode at the far corner of its plane. -/
theorem witness_bg_get :
    (1 = (511 : Half).toNat % 512 / 256 ∧ 255 = (511 : Half).toNat % 256 ∧ 239 = (239 : Half).toNat % 240) ∧
    (1 = (479 : Half).toNat % 480 / 240 ∧ 255 = (255 : Half).toNat % 256 ∧ 239 = (479 : Half).toNat % 240) ∧
    (0 = 0 ∧ 255 = (255 : Half).toNat % 256 ∧ 239 = (239 : Half).toNat % 240) ∧
    (State.resetWith .vertical).mirroring = .vertical ∧ (State.resetWith .horizontal).mirroring = .horizontal ∧
    (State.resetWith .single).mirroring = .single := by decide

/-- A search that finds both a front and a back sprite. -/
theorem witness_search :
    ((List.range 64).filter fun i => (furnished.sprAt i).hitPix 7 7).take 8 = [0, 1] ∧
    furnished.search (fun p => p.hitPix 7 7) = ([0], [1]) := by decide

theorem witness_search_commands :
    ([0], [1]) = furnished.search (fun p => decide (p.tile ≠ 0xFF ∧
      (p.x.toInt ≤ ((7 : Half).toNat : Int) ∧ ((7 : Half).toNat : Int) < p.x.toInt + 8) ∧
      (p.y.toInt ≤ ((7 : Half).toNat : Int) ∧ ((7 : Half).toNat : Int) < p.y.toInt + 8))) ∧
    ([0], [1]) = furnished.search (fun p => decide (p.tile ≠ 0xFF ∧
      p.y.toInt ≤ ((7 : Half).toNat : Int) ∧ ((7 : Half).toNat : Int) < p.y.toInt + 8)) := by decide

theorem witness_sprite_pixel :
    (furnished.sprAt 0).hitPix 7 7 = true ∧ ((7 : Nat) : Int) = ((7 : Nat) : Int) - (furnished.sprAt 0).x.toInt ∧
    ((7 : Nat) : Int) = ((7 : Nat) : Int) - (furnished.sprAt 0).y.toInt := by decide

/-- The same sprites with their flip and reserved bits set. -/
theorem witness_flip_bits :
    ({ furnished with spr := [(0, sprite 0 0 1 0 0xFE), (1, sprite 0 0 1 0 0xFF)] } : State) =
      { furnished with spr := [(0, sprite 0 0 1 0 0xFE), (1, sprite 0 0 1 0 0xFF)] } ∧
    ∀ i, (({ furnished with spr := [(0, sprite 0 0 1 0 0xFE), (1, sprite 0 0 1 0 0xFF)] } : State).sprAt i).x =
        (furnished.sprAt i).x ∧
      (({ furnished with spr := [(0, sprite 0 0 1 0 0xFE), (1, sprite 0 0 1 0 0xFF)] } : State).sprAt i).y =
        (furnished.sprAt i).y ∧
      (({ furnished with spr := [(0, sprite 0 0 1 0 0xFE), (1, sprite 0 0 1 0 0xFF)] } : State).sprAt i).tile =
        (furnished.sprAt i).tile ∧
      (({ furnished with spr := [(0, sprite 0 0 1 0 0xFE), (1, sprite 0 0 1 0 0xFF)] } : State).sprAt i).pal =
        (furnished.sprAt i).pal ∧
      (({ furnished with spr := [(0, sprite 0 0 1 0 0xFE), (1, sprite 0 0 1 0 0xFF)] } : State).sprAt i).attr.getLsbD 0 =
        (furnished.sprAt i).attr.getLsbD 0 := by
  refine ⟨rfl, fun i => ?_⟩
  match i with
  | 0 => decide
  | 1 => decide
  | n + 2 => simp [State.sprAt, Memory.get, Memory.find?, furnished]

/-- One extent to the right, one extent up. -/
theorem witness_scroll_period :
    ({ furnished with scrollX := 512, scrollY := -240 } : State) = { furnished with scrollX := 512, scrollY := -240 } ∧
    (512 : Half).toInt = furnished.scrollX.toInt + 1 * (extentW furnished.mirroring : Int) ∧
    (-240 : Half).toInt = furnished.scrollY.toInt + (-1) * (extentH furnished.mirroring : Int) := by decide

/-- An opaque and a transparent background pixel. -/
theorem witness_first_opaque_layer :
    furnished.bgLookup (furnished.scrollMap 0 0).1 (furnished.scrollMap 0 0).2 = (1, 1, 1) ∧
    furnished.bgLookup (furnished.scrollMap 1 0).1 (furnished.scrollMap 1 0).2 = (1, 1, 0) := by decide

/-- Other entries 0 in both banks, the others as before. -/
theorem witness_palette_entry_zero :
    ∀ q i, 1 ≤ i → i < 4 →
      ({ furnished with bgPal := [(4, 0x3F), (5, 0x05)], sprPal := [(0, 0x3F), (1, 0x11)] } : State).bgPalAt q i =
        furnished.bgPalAt q i ∧
      ({ furnished with bgPal := [(4, 0x3F), (5, 0x05)], sprPal := [(0, 0x3F), (1, 0x11)] } : State).sprPalAt q i =
        furnished.sprPalAt q i := by
  intro q i h1 h2
  have h3 : palKey q i ≠ 0 ∧ palKey q i ≠ 4 := by unfold palKey; omega
  constructor <;> simp [State.bgPalAt, State.sprPalAt, Memory.get, Memory.find?, furnished, h3.1.symm, h3.2.symm]

/-- Both clauses of SET_CALLBACK and RENDER: outside a render, and in one. -/
theorem witness_busy_clear_and_set : idle.busy = false ∧ rowEvent.busy = true := by decide

/-- Both clauses of CALLBACK_RETURN. -/
theorem witness_event_pending_set_and_clear : rowEvent.eventPending = true ∧ idle.eventPending = false := by decide

/-- The first and the last register that does not exist, and the last that does. -/
theorem witness_read_ctrl_bounds : 8 < (9 : Byte).toNat ∧ 8 < (255 : Byte).toNat ∧ (8 : Byte).toNat ≤ 8 := by decide

/-- A step that is not the scan's, and each of the scan's four points, firing and not. -/
theorem witness_firing_points :
    (idle.held = false ∧ ∃ t, step idle = .next t) ∧
    ((scanning 0x82 (.rowHead 1)).held = true ∧ (stateOf (step (scanning 0x82 (.rowHead 1)))).events = [{ x := 0, y := 1 }]) ∧
    ((scanning 0x81 (.rowHead 1)).held = true ∧ (stateOf (step (scanning 0x81 (.rowHead 1)))).events = []) ∧
    ((scanning 0x82 (.rowHead 2)).held = true ∧ (stateOf (step (scanning 0x82 (.rowHead 2)))).events = []) ∧
    ((scanning 0x84 (.pixelHead 1)).held = true ∧ (stateOf (step (scanning 0x84 (.pixelHead 1)))).events = [{ x := 1, y := 0 }]) ∧
    ((scanning 0x84 (.pixelHead 2)).held = true ∧ (stateOf (step (scanning 0x84 (.pixelHead 2)))).events = []) ∧
    (scanning 0x82 .rowSearch).held = true ∧ (scanning 0x84 .pixelBody).held = true :=
  ⟨⟨rfl, _, rfl⟩, by decide⟩

theorem witness_raising_an_event :
    ((scanning 0x82 (.rowHead 1)).held = true ∧ ∃ t, step (scanning 0x82 (.rowHead 1)) = .next t ∧ t.eventPending = true) ∧
    ((scanning 0x84 (.pixelHead 1)).held = true ∧
      ∃ t, step (scanning 0x84 (.pixelHead 1)) = .next t ∧ t.eventPending = true) :=
  ⟨⟨rfl, _, rfl, rfl⟩, ⟨rfl, _, rfl, rfl⟩⟩

/-- A command that leaves the event pending, and the one that ends it. -/
theorem witness_pending_event :
    rowEvent.busy = true ∧ rowEvent.eventPending = true ∧
    (∃ t, step { rowEvent with port := [0x26, 0x0F] } = .next t ∧ t.eventPending = true) ∧
    ∃ t, step { rowEvent with port := [0x43] } = .next t ∧ t.eventPending = false :=
  ⟨rfl, rfl, ⟨_, rfl, rfl⟩, ⟨_, rfl, rfl⟩⟩

/-- Both clauses: a row's event and a pixel's. -/
theorem witness_event_before_search_and_pixel :
    (rowEvent.busy = true ∧ rowEvent.eventPending = true ∧ rowEvent.scanPoint = .rowSearch) ∧
    (pixelEvent.busy = true ∧ pixelEvent.eventPending = true ∧ pixelEvent.scanPoint = .pixelBody ∧
      pixelEvent.pixelMode = true ∧
      pixelEvent.scanY.toNat * pixelEvent.renderW.toNat + pixelEvent.scanX.toNat < pixelEvent.fbLen.toNat) := by decide

/-- Pixel mode and row mode. -/
theorem witness_pixel_step :
    ((scanning 0x04 .pixelBody).held = true ∧ ([], []) = (scanning 0x04 .pixelBody).findSpritesPixel 0 0) ∧
    ({ scanning 0x00 .pixelBody with spr := [(3, sprite 0 0 1 0 0)], rowFront := [3] } : State).held = true ∧
    [3] = ([3] : List Nat).filter fun k =>
      (({ scanning 0x00 .pixelBody with spr := [(3, sprite 0 0 1 0 0)], rowFront := [3] } : State).sprAt k).hitX 0 := by
  decide

/-- The head of a row and of a column left at which no event fires though ENABLE is set, after an earlier event. -/
theorem witness_quiet_steps :
    ({ scanning 0x81 (.rowHead 1) with eventX := 0, eventY := 0 } : State).held = true ∧
    (stateOf (step (scanning 0x81 (.rowHead 1)))).eventPending = false ∧
    ({ scanning 0x82 (.pixelHead 1) with eventY := 1, scanY := 1 } : State).held = true ∧
    (stateOf (step { scanning 0x82 (.pixelHead 1) with eventY := 1, scanY := 1 })).eventPending = false ∧
    (stateOf (step { scanning 0x82 (.pixelHead 1) with eventY := 1, scanY := 1 })).eventY = 1 := by decide

/-- A scan step at each point, a row and a column left and none left. -/
theorem witness_scan_order :
    ([.rowHead 1, .rowHead 2, .rowSearch, .pixelHead 1, .pixelHead 2, .pixelBody] : List ScanPoint).all
      (fun p => (scanning 0x00 p).held && (scanning 0x04 p).held) = true := by decide

theorem witness_scan_step : (scanning 0x00 .rowSearch).held = true ∧ ∃ t, step (scanning 0x00 .rowSearch) = .next t :=
  ⟨rfl, _, rfl⟩

/-- Both modes with no callback installed. -/
theorem witness_render_without_callback :
    (furnished.busy = false ∧ furnished.eventPending = false ∧ furnished.cbCtrl.getLsbD 7 = false) ∧
    ({ furnished with cbCtrl := 0x04 } : State).cbCtrl.getLsbD 7 = false ∧
    (0 < (2 : Half).toNat ∧ 1 < (2 : Half).toNat ∧ 1 * 2 + 0 < (4 : Word).toNat) ∧
    ({ furnished with port := [0x42, 2, 0, 2, 0, 4, 0, 0, 0, 0x43] } : State).port = encode (.render 2 2 4) ++ [0x43] := by
  decide

end Sys2Proof.Tests
end

