-- ==== Sys2Proof/Proofs/Scope.lean ====
section
/-! SUPPORT. The statement about the PPU's scope (00_scope.md): the mirroring mode is fixed. -/

namespace Sys2Proof.Machine

/-- Settles O17: neither a step of the scan, nor a command performed, nor the answer to a refusal or to a rejected stream
writes the mirroring mode (00_scope.md R7, 10_state.md R37). -/
theorem noStepChangesTheMirroringMode : Obligations.NoStepChangesTheMirroringMode := by
  intro s t h
  obtain hscan | hidle | hperformed | hrefused | hrejected := step_cases h
  · obtain ⟨-, rfl⟩ := hscan
    exact s.scanStep_samePpu.picture.mirroring
  · obtain ⟨-, -, rfl⟩ := hidle
    rfl
  · obtain ⟨-, -, _, _, -, hexec⟩ := hperformed
    exact (exec_sameScan hexec).mirroring
  · obtain ⟨-, -, _, _, _, _, -, -, -, rfl⟩ := hrefused
    exact State.respond_mirroring _ _
  · obtain ⟨-, -, _, _, -, -, rfl⟩ := hrejected
    exact State.respond_mirroring _ _

end Sys2Proof.Machine
end

