-- ==== Sys2Proof/Proofs/State.lean ====
section
/-! SUPPORT. The statements about the machine's state (10_state.md): its values at reset, the invariant every step keeps, who
writes CB_CTRL and BUSY, the order of the scan, and that entry 0 of a palette is never seen. -/

namespace Sys2Proof.Machine

/-! ### What the scan can do, one constructor for each of its moves -/

/-- `s.ScanMove t`: the scan goes from `s` to `t` in one step. Each constructor names the point of the loop of R183, the branch
taken there, and the state it leads to. -/
inductive State.ScanMove (s : State) : State → Prop where
  /-- A row left is taken in pixel mode. -/
  | rowTaken {y : Nat} (point : s.scanPoint = .rowHead y) (left : y < s.renderH.toNat) (mode : s.pixelMode = true) :
      ScanMove s { s with scanY := BitVec.ofNat 16 y, scanPoint := .pixelHead 0 }
  /-- A row left is taken in row mode, at no firing point. -/
  | rowQuiet {y : Nat} (point : s.scanPoint = .rowHead y) (left : y < s.renderH.toNat) (mode : s.pixelMode = false)
      (quiet : s.rowFires y = false) :
      ScanMove s { s with scanY := BitVec.ofNat 16 y, scanX := 0, scanPoint := .rowSearch }
  /-- A row left is taken in row mode, and its event raised. -/
  | rowFires {y : Nat} (point : s.scanPoint = .rowHead y) (left : y < s.renderH.toNat) (mode : s.pixelMode = false)
      (fires : s.rowFires y = true) :
      ScanMove s ({ s with scanY := BitVec.ofNat 16 y, scanX := 0, scanPoint := .rowSearch }.fire 0 (BitVec.ofNat 16 y))
  /-- After the last row the render ends. -/
  | renderEnds {y : Nat} (point : s.scanPoint = .rowHead y) (done : s.renderH.toNat ≤ y) : ScanMove s s.endRender
  /-- The sprites of the row are searched. -/
  | rowSearched (point : s.scanPoint = .rowSearch) : ScanMove s s.searchRow
  /-- A column left is taken, at no firing point. -/
  | columnQuiet {x : Nat} (point : s.scanPoint = .pixelHead x) (left : x < s.renderW.toNat) (quiet : s.pixelFires = false) :
      ScanMove s { s with scanX := BitVec.ofNat 16 x, scanPoint := .pixelBody }
  /-- A column left is taken, and its event raised. -/
  | columnFires {x : Nat} (point : s.scanPoint = .pixelHead x) (left : x < s.renderW.toNat) (fires : s.pixelFires = true) :
      ScanMove s ({ s with scanX := BitVec.ofNat 16 x, scanPoint := .pixelBody }.fire (BitVec.ofNat 16 x) s.scanY)
  /-- After the last column the next row comes. -/
  | rowEnds {x : Nat} (point : s.scanPoint = .pixelHead x) (done : s.renderW.toNat ≤ x) :
      ScanMove s { s with scanPoint := .rowHead (s.scanY.toNat + 1) }
  /-- A pixel is composed and written. -/
  | pixelDrawn (point : s.scanPoint = .pixelBody) : ScanMove s s.drawPixel

/-- The scan's step is one of its moves. -/
theorem State.scanMove_scanStep (s : State) : s.ScanMove s.scanStep := by
  rcases hp : s.scanPoint with y | _ | x | _
  · rw [State.scanStep_rowHead hp]
    split
    next left =>
      cases mode : s.pixelMode
      · cases fires : s.rowFires y
        · rw [State.beginRow_quiet mode fires]; exact .rowQuiet hp left mode fires
        · rw [State.beginRow_fires mode fires]; exact .rowFires hp left mode fires
      · rw [State.beginRow_pixelMode mode]; exact .rowTaken hp left mode
    next done => exact .renderEnds hp (by omega)
  · rw [State.scanStep_rowSearch hp]; exact .rowSearched hp
  · rw [State.scanStep_pixelHead hp]
    split
    next left =>
      cases fires : s.pixelFires
      · rw [State.beginPixel_quiet fires]; exact .columnQuiet hp left fires
      · rw [State.beginPixel_fires fires]; exact .columnFires hp left fires
    next done => exact .rowEnds hp (by omega)
  · rw [State.scanStep_pixelBody hp]; exact .pixelDrawn hp

/-- While the port holds, a render is in progress and no event is pending (R203). -/
theorem State.held_iff (s : State) : s.held = true ↔ s.busy = true ∧ s.eventPending = false := by
  simp [State.held]

/-- A coordinate inside the frame is what its 16-bit register holds. -/
theorem toNat_ofNat_of_lt_half {n : Nat} {bound : Half} (h : n < bound.toNat) : (BitVec.ofNat 16 n).toNat = n :=
  (BitVec.toNat_ofNat n 16).trans (Nat.mod_eq_of_lt (h.trans bound.isLt))

/-! ### The tables stay canonical -/

/-- A write to a canonical table at a legal index leaves it so. -/
theorem Memory.set_canonical {α : Type} [DecidableEq α] {z : α} {m : Table α} {b k : Nat}
    (h : Memory.wf (some z) m ∧ KeysBelow b m) (hk : k < b) (v : α) :
    Memory.wf (some z) (Memory.set z m k v) ∧ KeysBelow b (Memory.set z m k v) :=
  ⟨Memory.set_wf h.1 k v, Memory.set_keysBelow h.2 hk v⟩

theorem palWriteOne_canonical {m : Table Byte} (h : Memory.wf (some unlistedByte) m ∧ KeysBelow 16 m) (pal slot : Nat)
    (c : Byte) : Memory.wf (some unlistedByte) (palWriteOne m pal slot c) ∧ KeysBelow 16 (palWriteOne m pal slot c) :=
  ⟨palWriteOne_wf h.1 _ _ _, palWriteOne_keysBelow h.2 _ _ _⟩

theorem palWriteBulk_canonical {m : Table Byte} (h : Memory.wf (some unlistedByte) m ∧ KeysBelow 16 m) (pal : Nat)
    (cs : List Byte) : Memory.wf (some unlistedByte) (palWriteBulk m pal cs) ∧ KeysBelow 16 (palWriteBulk m pal cs) :=
  ⟨palWriteFrom_wf h.1 _ _ _, palWriteFrom_keysBelow h.2 _ _ _⟩

namespace State.TablesCanonical

variable {s t : State}

/-- Canonical tables depend on the tables, the mirroring mode and the framebuffer alone. -/
theorem of_samePicture (h : s.TablesCanonical) (same : s.SamePicture t)
    (hfb : Memory.wf none t.fb ∧ KeysBelow 4294967296 t.fb) : t.TablesCanonical where
  pt := same.pt ▸ h.pt
  tile := same.tile ▸ same.mirroring ▸ h.tile
  block := same.block ▸ same.mirroring ▸ h.block
  bgPal := same.bgPal ▸ h.bgPal
  spr := same.spr ▸ h.spr
  sprPal := same.sprPal ▸ h.sprPal
  fb := hfb

theorem respondOk (h : s.TablesCanonical) (r : List Byte) : (s.respondOk r).TablesCanonical := { h with }

theorem writePatterns (h : s.TablesCanonical) {n : Nat} (hn : n < 2) (start : Nat) (px : List Byte) :
    (s.writePatterns n start px).TablesCanonical :=
  { h with pt := ⟨patternWriteFrom_wf h.pt.1 _ _ _ _, patternWriteFrom_keysBelow h.pt.2 hn _ _ _⟩ }

theorem writeTile (h : s.TablesCanonical) {n ty tx : Nat} (hn : n < ntCount s.mirroring) (hy : ty < 30) (hx : tx < 32)
    (v : Byte) : (s.writeTile n ty tx v).TablesCanonical :=
  { h with tile := Memory.set_canonical h.tile (tileKey_lt hn hy hx) v }

theorem writeBlock (h : s.TablesCanonical) {n yb xb : Nat} (hn : n < ntCount s.mirroring) (hy : yb < 15) (hx : xb < 16)
    (v : BitVec 2) : (s.writeBlock n yb xb v).TablesCanonical :=
  { h with block := Memory.set_canonical h.block (blockKey_lt hn hy hx) v }

theorem writeSprite (h : s.TablesCanonical) {i : Nat} (hi : i < 64) (v : Sprite) :
    (s.writeSprite i v).TablesCanonical :=
  { h with spr := Memory.set_canonical h.spr hi v }

theorem setBgPal (h : s.TablesCanonical) {m : Table Byte} (hm : Memory.wf (some unlistedByte) m ∧ KeysBelow 16 m) :
    (s.setBgPal m).TablesCanonical := { h with bgPal := hm }

theorem setSprPal (h : s.TablesCanonical) {m : Table Byte} (hm : Memory.wf (some unlistedByte) m ∧ KeysBelow 16 m) :
    (s.setSprPal m).TablesCanonical := { h with sprPal := hm }

/-- A framebuffer write past FB_LEN is dropped, and FB_LEN is below 2^32, so no index is out of range (R50, R55). -/
theorem fbWrite (h : s.TablesCanonical) (i : Nat) (v : Byte) : (s.fbWrite i v).TablesCanonical := by
  unfold State.fbWrite
  split
  next hi =>
    exact { h with fb := ⟨Memory.put_wf_none h.fb.1 i v, Memory.put_keysBelow h.fb.2 (hi.trans s.fbLen.isLt) v⟩ }
  next => exact h

/-- Every performed command keeps the tables canonical: an index operand is reduced before it is used (R52). -/
theorem exec (h : s.TablesCanonical) {i : Instr} (he : exec i s = .next t) : t.TablesCanonical := by
  cases i
  case writePattern => cases he; exact (h.writePatterns (tableIndex_lt _) _ _).respondOk _
  case setTile => cases he; exact (h.writeTile (nameTableIndex_lt _ _) (tileRow_lt _) (tileColumn_lt _) _).respondOk _
  case setTilePalette =>
    cases he; exact (h.writeBlock (nameTableIndex_lt _ _) (blockRow_lt _) (blockColumn_lt _) _).respondOk _
  case setBgPaletteColor => cases he; exact (h.setBgPal (palWriteOne_canonical h.bgPal _ _ _)).respondOk _
  case setBgPalette => cases he; exact (h.setBgPal (palWriteBulk_canonical h.bgPal _ _)).respondOk _
  case setBgPaletteBulk => cases he; exact (h.setBgPal (palWriteBulk_canonical h.bgPal _ _)).respondOk _
  case setSprite => cases he; exact (h.writeSprite (spriteIndex_lt _) _).respondOk _
  case setSpritePosition => cases he; exact (h.writeSprite (spriteIndex_lt _) _).respondOk _
  case setSpritePaletteColor => cases he; exact (h.setSprPal (palWriteOne_canonical h.sprPal _ _ _)).respondOk _
  case setSpritePalette => cases he; exact (h.setSprPal (palWriteBulk_canonical h.sprPal _ _)).respondOk _
  case setSpritePaletteBulk => cases he; exact (h.setSprPal (palWriteBulk_canonical h.sprPal _ _)).respondOk _
  case setCallback | render | callbackReturn | readCtrl =>
    simp only [Machine.exec, execSetCallback, execRender, execCallbackReturn, execReadCtrl] at he
    split at he <;> cases he
    exact { h with }
  all_goals
    cases he
    exact { h with }

/-- Every move of the scan keeps the tables canonical: only a pixel drawn writes one, the framebuffer. -/
theorem scanStep (h : s.TablesCanonical) : s.scanStep.TablesCanonical := by
  refine h.of_samePicture s.scanStep_samePpu.picture ?_
  obtain hfb | hbody := s.scanStep_fb_cases
  · exact hfb ▸ h.fb
  · rw [State.scanStep_pixelBody hbody]
    exact (h.fbWrite _ _).fb

end State.TablesCanonical

/-! ### The scan keeps the row set, its place in the frame and the event -/

namespace State.ScanMove

variable {s t : State}

/-- The row set is left alone, or is what the row's search found. -/
theorem rowSetLegal (move : s.ScanMove t) (h : s.RowSetLegal) : t.RowSetLegal := by
  cases move with
  | rowSearched => exact ⟨s.search_length_le _, s.search_lt _⟩
  | pixelDrawn => rw [State.drawPixel_eq]; exact h
  | _ => exact h

/-- No move leads out of the frame: a row or column is taken only while it is left. -/
theorem scanInFrame (move : s.ScanMove t) (hbusy : s.busy = true) (h : s.ScanInFrame) : t.ScanInFrame := by
  have inFrame := h hbusy
  intro htbusy
  cases move with
  | rowTaken point left => exact ⟨Nat.zero_le _, (toNat_ofNat_of_lt_half left).trans_lt left⟩
  | rowQuiet point left mode | rowFires point left mode =>
    exact ⟨mode, rfl, (toNat_ofNat_of_lt_half left).trans_lt left⟩
  | renderEnds => cases htbusy
  | rowSearched point =>
    rw [point] at inFrame
    exact ⟨Nat.zero_le _, inFrame.2.2⟩
  | columnQuiet point left | columnFires point left =>
    rw [point] at inFrame
    exact ⟨(toNat_ofNat_of_lt_half left).trans_lt left, inFrame.2⟩
  | rowEnds point =>
    rw [point] at inFrame
    exact inFrame.2
  | pixelDrawn point =>
    rw [point] at inFrame
    rw [State.drawPixel_eq]
    exact inFrame

/-- An event is pending after a move only if the move raised it, at a firing point and with the scan's position (R181, R206). -/
theorem eventConsistent (move : s.ScanMove t) (hbusy : s.busy = true) (hquiet : s.eventPending = false) :
    t.EventConsistent := by
  intro hpending
  cases move with
  | rowFires point left mode fires =>
    have enable : ctrlEnable s.cbCtrl = true := by
      simp only [State.rowFires, Bool.and_eq_true] at fires
      exact fires.1.2
    exact ⟨hbusy, enable, rfl, rfl, .inr ⟨mode, rfl⟩⟩
  | columnFires point left fires =>
    obtain ⟨always, enable⟩ : ctrlAlways s.cbCtrl = true ∧ ctrlEnable s.cbCtrl = true := by
      simpa only [State.pixelFires, Bool.and_eq_true] using fires
    exact ⟨hbusy, enable, rfl, rfl, .inl ⟨always, rfl⟩⟩
  | pixelDrawn => rw [State.drawPixel_eq] at hpending; cases hquiet.symm.trans hpending
  | _ => cases hquiet.symm.trans hpending

end State.ScanMove

/-! ### The invariant -/

/-- SET_CALLBACK drops the reserved bits (R173, R38). -/
theorem ctrlStored_reserved (c : Byte) : ctrlStored c &&& 0x78 = 0 := by
  rw [ctrlStored, BitVec.and_assoc]
  exact BitVec.and_zero

namespace State.Inv

variable {s t : State}

/-- The invariant does not speak of the command port or of the responses. -/
theorem withChannels (h : s.Inv) (p : List Byte) (rs : List (List Byte)) :
    State.Inv { s with port := p, responses := rs } :=
  ⟨{ h.tables with }, h.reserved, h.rowSet, h.scan, h.event⟩

/-- A move of the scan keeps the invariant. -/
theorem scanStep (h : s.Inv) (held : s.held = true) : s.scanStep.Inv := by
  obtain ⟨hbusy, hquiet⟩ := s.held_iff.mp held
  have move := s.scanMove_scanStep
  exact {
    tables := h.tables.scanStep
    reserved := by rw [State.ReservedClear, s.scanStep_samePpu.cbCtrl]; exact h.reserved
    rowSet := move.rowSetLegal h.rowSet
    scan := move.scanInFrame hbusy h.scan
    event := move.eventConsistent hbusy hquiet }

/-- No event is pending outside a render. -/
theorem eventPending_of_idle (h : s.Inv) (idle : s.busy = false) : s.eventPending = false := by
  cases hp : s.eventPending
  · rfl
  · cases idle.symm.trans (h.event hp).1

/-- A performed command keeps the invariant: RENDER puts the scan before row 0, SET_CALLBACK works outside a render alone, and
every other command leaves the scan, the mode and the event's position as they are. -/
theorem exec (h : s.Inv) {i : Instr} (he : exec i s = .next t) : t.Inv := by
  have same := exec_sameScan he
  have hrow : t.RowSetLegal := by
    rw [State.RowSetLegal, same.rowFront, same.rowBack]; exact h.rowSet
  have htables := h.tables.exec he
  obtain ⟨w, hh, len, -, idle, rfl⟩ | ⟨-, busy, renderW, renderH, -, point, pending, ctrl⟩ := exec_next_cases he
  · refine ⟨htables, h.reserved, hrow, fun _ => Nat.zero_le _, fun hp => ?_⟩
    cases (h.eventPending_of_idle idle).symm.trans hp
  · have pending_before : t.eventPending = true → s.eventPending = true := by
      intro hp
      obtain hpe | ⟨-, -, hpe⟩ := pending
      · rwa [← hpe]
      · cases hpe.symm.trans hp
    obtain ctrl | ⟨c, -, idle, ctrl⟩ := ctrl
    · refine ⟨htables, by rw [State.ReservedClear, ctrl]; exact h.reserved, hrow, ?_, fun hp => ?_⟩
      · rw [State.ScanInFrame, State.pixelMode, busy, point, renderW, renderH, ctrl, same.scanX, same.scanY]
        exact h.scan
      · rw [State.pixelMode, busy, point, ctrl, same.eventX, same.eventY, same.scanX, same.scanY]
        exact h.event (pending_before hp)
    · refine ⟨htables, by rw [State.ReservedClear, ctrl]; exact ctrlStored_reserved c, hrow, fun hb => ?_, fun hp => ?_⟩
      · cases idle.symm.trans (busy.symm.trans hb)
      · cases (h.eventPending_of_idle idle).symm.trans (pending_before hp)

end State.Inv

/-- Settles O8: each kind of step keeps the invariant: a move of the scan, nothing, a command performed, and the answers to a
refusal and to a rejected stream, which touch the channels alone. -/
theorem everyStepKeepsTheInvariant : Obligations.EveryStepKeepsTheInvariant := by
  intro s t hinv h
  obtain hscan | hidle | hperformed | hrefused | hrejected := step_cases h
  · obtain ⟨held, rfl⟩ := hscan
    exact hinv.scanStep held
  · obtain ⟨-, -, rfl⟩ := hidle
    exact hinv
  · obtain ⟨-, -, _, rest, -, hexec⟩ := hperformed
    exact (hinv.withChannels rest s.responses).exec hexec
  · obtain ⟨-, -, _, _, _, _, -, -, -, rfl⟩ := hrefused
    exact hinv.withChannels _ _
  · obtain ⟨-, -, _, _, -, -, rfl⟩ := hrejected
    exact hinv.withChannels _ _

/-! ### Who writes CB_CTRL and BUSY -/

/-- Settles O18: the scan leaves CB_CTRL alone, and of the commands only SET_CALLBACK writes it, outside a render. -/
theorem onlySetCallbackChangesCbCtrl : Obligations.OnlySetCallbackChangesCbCtrl := by
  intro s t h hne
  obtain hscan | hidle | hperformed | hrefused | hrejected := step_cases h
  · obtain ⟨-, rfl⟩ := hscan
    exact absurd s.scanStep_samePpu.cbCtrl hne
  · obtain ⟨-, -, rfl⟩ := hidle
    exact absurd rfl hne
  · obtain ⟨-, -, i, rest, hdec, hexec⟩ := hperformed
    obtain ⟨_, _, _, -, -, rfl⟩ | ⟨-, -, -, -, -, -, -, ctrl⟩ := exec_next_cases hexec
    · exact absurd rfl hne
    · obtain same | ⟨c, rfl, idle, stored⟩ := ctrl
      · exact absurd same hne
      · exact ⟨idle, c, rest, hdec, stored⟩
  · obtain ⟨-, -, _, _, _, _, -, -, -, rfl⟩ := hrefused
    exact absurd rfl hne
  · obtain ⟨-, -, _, _, -, -, rfl⟩ := hrejected
    exact absurd rfl hne

/-- What a step does to BUSY: nothing, unless it performs RENDER or is the scan's move at the render's end. -/
theorem step_busy_cases {s t : State} (h : step s = .next t) :
    t.busy = s.busy ∨
    (t.busy = true ∧ ∃ w hh len rest, decode s.port = .ok (.render w hh len, rest)) ∨
    (t.busy = false ∧ s.eventPending = false ∧ ∃ y, s.scanPoint = .rowHead y ∧ s.renderH.toNat ≤ y) := by
  obtain hscan | hidle | hperformed | hrefused | hrejected := step_cases h
  · obtain ⟨held, rfl⟩ := hscan
    obtain ⟨same, -⟩ | ⟨hend, hpoint⟩ := s.scanStep_busy_cases
    · exact .inl same
    · exact .inr (.inr ⟨by rw [hend]; rfl, (s.held_iff.mp held).2, hpoint⟩)
  · obtain ⟨-, -, rfl⟩ := hidle
    exact .inl rfl
  · obtain ⟨-, -, i, rest, hdec, hexec⟩ := hperformed
    obtain ⟨w, hh, len, rfl, -, rfl⟩ | ⟨-, same, -⟩ := exec_next_cases hexec
    · exact .inr (.inl ⟨rfl, w, hh, len, rest, hdec⟩)
    · exact .inl same
  · obtain ⟨-, -, _, _, _, _, -, -, -, rfl⟩ := hrefused
    exact .inl rfl
  · obtain ⟨-, -, _, _, -, -, rfl⟩ := hrejected
    exact .inl rfl

/-- Settles O19: a step that changes BUSY performs RENDER, which sets it, or is the render's end, which clears it. -/
theorem busyFollowsTheRender : Obligations.BusyFollowsTheRender := by
  intro s t h
  obtain same | ⟨hset, hrender⟩ | ⟨hclear, hend⟩ := step_busy_cases h
  · rw [same]
    exact ⟨fun h0 h1 => (nomatch h0.symm.trans h1), fun h1 h0 => (nomatch h1.symm.trans h0)⟩
  · exact ⟨fun _ _ => hrender, fun _ h0 => (nomatch h0.symm.trans hset)⟩
  · exact ⟨fun _ h1 => (nomatch hclear.symm.trans h1), fun _ _ => hend⟩

/-! ### The order of the scan -/

/-- Settles O56, move by move; a move that raised an event has one pending after it. -/
theorem theScanTakesRowsAndColumnsInOrder : Obligations.TheScanTakesRowsAndColumnsInOrder := by
  intro s held
  obtain ⟨hbusy, -⟩ := s.held_iff.mp held
  refine ⟨s.scanStep, step_of_held held, ?_⟩
  have move := s.scanMove_scanStep
  generalize s.scanStep = t at move
  cases move with
  | rowTaken point left mode =>
    rw [point]
    exact (if_pos left).mpr ⟨hbusy, toNat_ofNat_of_lt_half left, (if_pos mode).mpr ⟨rfl, rfl⟩, fun _ => rfl⟩
  | rowQuiet point left mode =>
    rw [point]
    exact (if_pos left).mpr
      ⟨hbusy, toNat_ofNat_of_lt_half left, (if_neg (ne_true_of_eq_false mode)).mpr ⟨rfl, rfl⟩, fun _ => rfl⟩
  | rowFires point left mode =>
    rw [point]
    exact (if_pos left).mpr
      ⟨hbusy, toNat_ofNat_of_lt_half left, (if_neg (ne_true_of_eq_false mode)).mpr ⟨rfl, rfl⟩, fun hp => nomatch hp⟩
  | renderEnds point done =>
    rw [point]
    exact (if_neg done.not_gt).mpr rfl
  | rowSearched point => rw [point]; rfl
  | columnQuiet point left =>
    rw [point]
    exact (if_pos left).mpr ⟨hbusy, toNat_ofNat_of_lt_half left, rfl, rfl, fun _ => rfl⟩
  | columnFires point left =>
    rw [point]
    exact (if_pos left).mpr ⟨hbusy, toNat_ofNat_of_lt_half left, rfl, rfl, fun hp => nomatch hp⟩
  | rowEnds point done =>
    rw [point]
    exact (if_neg done.not_gt).mpr rfl
  | pixelDrawn point =>
    rw [point]
    exact s.drawPixel_eq

/-! ### Palettes -/

section PaletteEntryZero

variable {s s' : State}

/-- An opaque pixel value names one of the entries 1 to 3. -/
theorem opaque_bounds {c : BitVec 2} (h : ¬c = 0) : 1 ≤ c.toNat ∧ c.toNat < 4 :=
  ⟨Nat.pos_of_ne_zero fun h0 => h (BitVec.eq_of_toNat_eq h0), c.isLt⟩

/-- The first opaque sprite pixel has the same color under sprite palettes that agree on entries 1 to 3. -/
theorem State.firstOpaque_congr (hs : s' = { s with bgPal := s'.bgPal, sprPal := s'.sprPal })
    (hpal : ∀ q i, 1 ≤ i → i < 4 → s'.sprPalAt q i = s.sprPalAt q i) (x y : Nat) (l : List Nat) :
    s'.firstOpaque x y l = s.firstOpaque x y l := by
  have hpixel (i : Nat) : s'.sprPixel i x y = s.sprPixel i x y := by rw [hs]; rfl
  have hspr (i : Nat) : s'.sprAt i = s.sprAt i := by rw [hs]; rfl
  induction l with
  | nil => rfl
  | cons i l ih =>
    simp only [State.firstOpaque, hpixel, hspr, ih]
    split
    next => rfl
    next hc => rw [hpal _ _ (opaque_bounds hc).1 (opaque_bounds hc).2]

/-- An opaque background pixel has the same color under background palettes that agree on entries 1 to 3. -/
theorem State.bgOpaque_congr (hs : s' = { s with bgPal := s'.bgPal, sprPal := s'.sprPal })
    (hpal : ∀ q i, 1 ≤ i → i < 4 → s'.bgPalAt q i = s.bgPalAt q i) (x y : Nat) : s'.bgOpaque x y = s.bgOpaque x y := by
  have hscroll : s'.scrollMap x y = s.scrollMap x y := by rw [hs]; rfl
  have hlookup (sx sy : Nat) : s'.bgLookup sx sy = s.bgLookup sx sy := by rw [hs]; rfl
  simp only [State.bgOpaque, hscroll, hlookup]
  split
  next => rfl
  next hc => rw [hpal _ _ (opaque_bounds hc).1 (opaque_bounds hc).2]

end PaletteEntryZero

/-- Settles O46: every layer looks a palette up at an opaque pixel's value, which is never 0. -/
theorem paletteEntryZeroNeverReachesThePicture : Obligations.PaletteEntryZeroNeverReachesThePicture := by
  intro s s' hs hpal x y front back
  have hsprites := State.firstOpaque_congr hs (fun q i h1 h4 => (hpal q i h1 h4).2) x y
  have hback := State.bgOpaque_congr hs (fun q i h1 h4 => (hpal q i h1 h4).1) x y
  have hcolor : s'.bgColor = s.bgColor := by rw [hs]
  simp only [State.composite, hsprites, hback, hcolor]

/-! ### Reset -/

/-- Settles O6: every table is empty at reset, so every entry reads as its unlisted value. -/
theorem resetLeavesTheSpecValues : Obligations.ResetLeavesTheSpecValues := by
  refine ⟨rfl, fun m => ?_⟩
  have hpt (t p y x : Nat) : (State.resetWith m).ptAt t p y x = 0 := Memory.get_nil _ _
  have htile (n ty tx : Nat) : (State.resetWith m).tileAt n ty tx = 0 := Memory.get_nil _ _
  have hblock (n b c : Nat) : (State.resetWith m).blockAt n b c = 0 := Memory.get_nil _ _
  have hbgPal (q i : Nat) : (State.resetWith m).bgPalAt q i = 0 := Memory.get_nil _ _
  have hsprPal (q i : Nat) : (State.resetWith m).sprPalAt q i = 0 := Memory.get_nil _ _
  have hspr (i : Nat) : (State.resetWith m).sprAt i = Sprite.reset := Memory.get_nil _ _
  exact ⟨hpt, htile, hblock, fun q i => ⟨hbgPal q i, hsprPal q i⟩, hspr, rfl, rfl, rfl, rfl, rfl, rfl, rfl, rfl, rfl, rfl,
    rfl, rfl, rfl, rfl, rfl, rfl, rfl⟩

/-- An empty table is canonical and lists no index at all. -/
theorem Memory.nil_canonical {α : Type} [DecidableEq α] (unlisted : Option α) (b : Nat) :
    Memory.wf unlisted ([] : Table α) ∧ KeysBelow b ([] : Table α) :=
  ⟨Memory.wf_nil unlisted, fun _ h => nomatch h⟩

/-- At reset every table is empty, the row set too, and no render is in progress. -/
theorem State.resetWith_inv (m : Mirroring) : (State.resetWith m).Inv where
  tables := by constructor <;> exact Memory.nil_canonical _ _
  reserved := BitVec.zero_and
  rowSet := ⟨Nat.zero_le _, fun _ h => nomatch h⟩
  scan := fun busy => nomatch busy
  event := fun pending => nomatch pending

/-- Settles O7: the machine's reset state is that of one mode, and the invariant holds at reset in every mode. -/
theorem resetMeetsTheInvariant : Obligations.ResetMeetsTheInvariant :=
  ⟨State.resetWith_inv Config.mirroring, State.resetWith_inv⟩

end Sys2Proof.Machine
end

