-- ==== Sys2Proof/Proofs/Memory.lean ====
section
/-! SUPPORT. The statements about the tables, the framebuffer and who may write or read them (20_memory.md R50 to R59): a step
performs the decoded command, queries change nothing, mutators are idempotent, and the scan writes the framebuffer, which
nothing reads. -/

namespace Sys2Proof.Machine

/-! ### Commands -/

/-- Settles O10: a performed command's next state is the step's (`step_of_exec_next`). -/
theorem stepRunsTheDecodedCommand : Obligations.StepRunsTheDecodedCommand := fun _ _ _ _ => step_of_exec_next

/-- Settles O20: a query is `respondOk` and nothing else; READ_CTRL answers only for a register that exists. -/
theorem queriesChangeNoState : Obligations.QueriesChangeNoState := by
  intro i s t query h
  cases i with
  | readPatternPixel | readBgPalette | bgGet | readSpritePalette | readSprite | findSprites | findSpritesRow =>
    cases h
    exact ⟨_, rfl⟩
  | readCtrl reg =>
    simp only [exec, execReadCtrl] at h
    split at h <;> cases h
    exact ⟨_, rfl⟩
  | _ => cases query

/-! ### Writing the same again -/

section Overwrites

variable {α : Type} {z : α}

/-- The operation `f` on tables whose unlisted keys read as `z` gives each key a value of its own, whatever the table, or
leaves it alone. -/
def Memory.Overwrites (z : α) (f : Table α → Table α) : Prop :=
  ∀ k, (∃ v, ∀ m, Memory.get z (f m) k = v) ∨ ∀ m, Memory.get z (f m) k = Memory.get z m k

theorem Memory.overwrites_id : Memory.Overwrites z fun m => m := fun _ => .inr fun _ => rfl

theorem Memory.overwrites_set [DecidableEq α] (k : Nat) (v : α) : Memory.Overwrites z fun m => Memory.set z m k v := by
  intro j
  by_cases hj : j = k
  · exact .inl ⟨v, fun m => (Memory.get_set z m k j v).trans (if_pos hj)⟩
  · exact .inr fun m => (Memory.get_set z m k j v).trans (if_neg hj)

/-- Of two overwriting operations the later wins, and where it writes nothing the earlier does. -/
theorem Memory.Overwrites.comp {f g : Table α → Table α} (hg : Memory.Overwrites z g) (hf : Memory.Overwrites z f) :
    Memory.Overwrites z fun m => g (f m) := by
  intro k
  obtain ⟨v, hv⟩ | hkeep := hg k
  · exact .inl ⟨v, fun m => hv (f m)⟩
  · obtain ⟨v, hv⟩ | hkeep' := hf k
    · exact .inl ⟨v, fun m => (hkeep (f m)).trans (hv m)⟩
    · exact .inr fun m => (hkeep (f m)).trans (hkeep' m)

/-- On canonical tables an overwriting operation is idempotent. -/
theorem Memory.Overwrites.again [DecidableEq α] {f : Table α → Table α} (hf : Memory.Overwrites z f)
    (hwf : ∀ {m}, Memory.wf (some z) m → Memory.wf (some z) (f m)) {m : Table α} (h : Memory.wf (some z) m) :
    f (f m) = f m := by
  refine Memory.eq_of_get_eq (hwf (hwf h)) (hwf h) fun k => ?_
  obtain ⟨v, hv⟩ | hkeep := hf k
  · rw [hv, hv]
  · exact hkeep (f m)

end Overwrites

theorem palWriteFrom_overwrites (pal k : Nat) (colors : List Byte) :
    Memory.Overwrites unlistedByte fun m => palWriteFrom m pal k colors := by
  induction colors generalizing k with
  | nil => exact Memory.overwrites_id
  | cons c cs ih => exact (ih (k + 1)).comp (Memory.overwrites_set _ _)

theorem patternWriteFrom_overwrites (t start k : Nat) (pixels : List Byte) :
    Memory.Overwrites unlistedSelector fun m => patternWriteFrom m t start k pixels := by
  induction pixels generalizing k with
  | nil => exact Memory.overwrites_id
  | cons b bs ih => exact (ih (k + 1)).comp (Memory.overwrites_set _ _)

theorem palWriteOne_again {m : Table Byte} (h : Memory.wf (some unlistedByte) m) (pal slot : Nat) (c : Byte) :
    palWriteOne (palWriteOne m pal slot c) pal slot c = palWriteOne m pal slot c :=
  (Memory.overwrites_set _ _).again (fun h => palWriteOne_wf h pal slot c) h

theorem palWriteBulk_again {m : Table Byte} (h : Memory.wf (some unlistedByte) m) (pal : Nat) (colors : List Byte) :
    palWriteBulk (palWriteBulk m pal colors) pal colors = palWriteBulk m pal colors :=
  (palWriteFrom_overwrites pal 0 colors).again (fun h => palWriteFrom_wf h pal 0 colors) h

theorem patternWrite_again {m : Table (BitVec 2)} (h : Memory.wf (some unlistedSelector) m) (t start : Nat)
    (pixels : List Byte) :
    patternWriteFrom (patternWriteFrom m t start 0 pixels) t start 0 pixels = patternWriteFrom m t start 0 pixels :=
  (patternWriteFrom_overwrites t start 0 pixels).again (fun h => patternWriteFrom_wf h t start 0 pixels) h

/-! What was just written is read back. -/

theorem State.tileAt_writeTile_self (s : State) (n : Nat) {ty tx : Nat} (hy : ty < 30) (hx : tx < 32) (v : Byte) :
    (s.writeTile n ty tx v).tileAt n ty tx = v :=
  (s.tileAt_writeTile hy hx v hy hx).trans (if_pos ⟨rfl, rfl, rfl⟩)

theorem State.blockAt_writeBlock_self (s : State) (n : Nat) {yb xb : Nat} (hy : yb < 15) (hx : xb < 16) (v : BitVec 2) :
    (s.writeBlock n yb xb v).blockAt n yb xb = v :=
  (s.blockAt_writeBlock hy hx v hy hx).trans (if_pos ⟨rfl, rfl, rfl⟩)

theorem State.sprAt_writeSprite_self (s : State) (i : Nat) (v : Sprite) : (s.writeSprite i v).sprAt i = v :=
  (s.sprAt_writeSprite i i v).trans (if_pos rfl)

theorem State.sprAt_respondOk (s : State) (r : List Byte) (i : Nat) : (s.respondOk r).sprAt i = s.sprAt i := rfl

/-! A write of what the table already holds leaves the state as it is. -/

section SameValue

variable {s : State}

theorem State.writePatterns_same {t start : Nat} {pixels : List Byte}
    (h : patternWriteFrom s.pt t start 0 pixels = s.pt) : s.writePatterns t start pixels = s := by
  rw [State.writePatterns, h]

theorem State.writeTile_same (h : s.TablesCanonical) {n ty tx : Nat} {v : Byte} (hv : s.tileAt n ty tx = v) :
    s.writeTile n ty tx v = s := by
  rw [State.writeTile, Memory.set_same h.tile.1 hv]

theorem State.writeBlock_same (h : s.TablesCanonical) {n yb xb : Nat} {v : BitVec 2} (hv : s.blockAt n yb xb = v) :
    s.writeBlock n yb xb v = s := by
  rw [State.writeBlock, Memory.set_same h.block.1 hv]

theorem State.writeSprite_same (h : s.TablesCanonical) {i : Nat} {v : Sprite} (hv : s.sprAt i = v) :
    s.writeSprite i v = s := by
  rw [State.writeSprite, Memory.set_same h.spr.1 hv]

theorem State.setBgPal_same {m : Table Byte} (h : m = s.bgPal) : s.setBgPal m = s := by rw [h]; rfl

theorem State.setSprPal_same {m : Table Byte} (h : m = s.sprPal) : s.setSprPal m = s := by rw [h]; rfl

end SameValue

/-- A command whose write leaves the state as it is only responds. -/
theorem next_respondOk_of_eq {written t : State} (h : written = t) :
    (.next (written.respondOk []) : Result) = .next (t.respondOk []) := by rw [h]

/-- Settles O21: after a mutator its own write changes nothing, so that it only responds when it is issued again. -/
theorem mutatorsAreIdempotent : Obligations.MutatorsAreIdempotent := by
  intro i s t u inv mutator first second
  have before := inv.tables
  have after := before.exec first
  suffices again : exec i t = .next (t.respondOk []) by
    cases again.symm.trans second
    rfl
  cases i with
  | writePattern =>
    cases first
    exact next_respondOk_of_eq (State.writePatterns_same (patternWrite_again before.pt.1 _ _ _))
  | setTile nt x y v =>
    cases first
    have written := s.tileAt_writeTile_self (nameTableIndex s.mirroring nt) (tileRow_lt y) (tileColumn_lt x) v
    exact next_respondOk_of_eq (State.writeTile_same after written)
  | setTilePalette nt x y v =>
    cases first
    have written := s.blockAt_writeBlock_self (nameTableIndex s.mirroring nt) (blockRow_lt y) (blockColumn_lt x)
      (paletteSelector v)
    exact next_respondOk_of_eq (State.writeBlock_same after written)
  | setBgPaletteColor =>
    cases first
    exact next_respondOk_of_eq (State.setBgPal_same (palWriteOne_again before.bgPal.1 _ _ _))
  | setBgPalette | setBgPaletteBulk =>
    cases first
    exact next_respondOk_of_eq (State.setBgPal_same (palWriteBulk_again before.bgPal.1 _ _))
  | setSprite =>
    cases first
    exact next_respondOk_of_eq (State.writeSprite_same after (s.sprAt_writeSprite_self _ _))
  | setSpritePosition slot x y =>
    cases first
    have written := s.sprAt_writeSprite_self (spriteIndex slot) { s.sprAt (spriteIndex slot) with x, y }
    refine next_respondOk_of_eq (State.writeSprite_same after ?_)
    rw [State.sprAt_respondOk, written]
  | setSpritePaletteColor =>
    cases first
    exact next_respondOk_of_eq (State.setSprPal_same (palWriteOne_again before.sprPal.1 _ _ _))
  | setSpritePalette | setSpritePaletteBulk =>
    cases first
    exact next_respondOk_of_eq (State.setSprPal_same (palWriteBulk_again before.sprPal.1 _ _))
  | setBgPatternTable | setBgColor | setSpritePatternTable | setScroll =>
    cases first
    rfl
  | setCallback ctrl =>
    simp only [exec, execSetCallback] at first
    split at first <;> cases first
    next idle => exact if_neg idle
  | _ => cases mutator

/-! ### The scan writes the framebuffer and its own state -/

/-- Settles O58, move by move. -/
theorem theScanChangesNoPpuTable : Obligations.TheScanChangesNoPpuTable := by
  intro s t held h
  cases (step_of_held held).symm.trans h
  have move := s.scanMove_scanStep
  generalize s.scanStep = t at move
  cases move with
  | pixelDrawn => rw [State.drawPixel_eq]
  | _ => rfl

/-- Settles O57: the lists given are those of the render's mode (R180), so the color is the pixel's. -/
theorem thePixelStepWritesOneEntry : Obligations.ThePixelStepWritesOneEntry := by
  rintro s _ _ _ front back held point rfl rfl rfl lists
  have sprites : s.pixelSprites s.scanX.toNat s.scanY.toNat = (front, back) := by
    unfold State.pixelSprites
    split
    next mode => exact ((if_pos mode).mp lists).symm
    next mode =>
      obtain ⟨rfl, rfl⟩ := (if_neg mode).mp lists
      rfl
  have color : s.pixelColor s.scanX.toNat s.scanY.toNat = s.composite s.scanX.toNat s.scanY.toNat front back := by
    rw [State.pixelColor, sprites]
  refine ⟨s.drawPixel, (step_of_held held).trans (by rw [State.scanStep_pixelBody point]), s.drawPixel_eq, fun j => ?_⟩
  rw [State.fbAt_drawPixel, color]

/-! ### Nothing reads the framebuffer -/

/-- The state with its framebuffer replaced. -/
def State.withFb (s : State) (m : List Host.Cell) : State := { s with fb := m }

/-- An outcome with the framebuffer of its state replaced. -/
def Result.withFb (m : List Host.Cell) : Result → Result
  | .next t => .next (t.withFb m)
  | .fault f => .fault f
  | .refused r => .refused r

section WithFb

variable (s : State) (m : List Host.Cell)

@[simp] theorem State.withFb_ctrlRegister (reg : Nat) : (s.withFb m).ctrlRegister reg = s.ctrlRegister reg := rfl

/-- The framebuffer is no part of the picture. -/
theorem State.samePicture_withFb : s.SamePicture (s.withFb m) := by constructor <;> rfl

/-- A command does the same whatever the framebuffer, and writes none. -/
theorem exec_withFb (i : Instr) : exec i (s.withFb m) = Result.withFb m (exec i s) := by
  cases i with
  | setCallback | render | callbackReturn =>
    simp only [exec, execSetCallback, execRender, execCallbackReturn, apply_ite (Result.withFb m)]
    rfl
  | readCtrl reg =>
    simp only [exec, execReadCtrl, State.withFb_ctrlRegister]
    split <;> rfl
  | findSprites =>
    rw [exec, execFindSprites, (s.samePicture_withFb m).findSpritesPixel]
    rfl
  | findSpritesRow =>
    rw [exec, execFindSpritesRow, (s.samePicture_withFb m).findSpritesRow]
    rfl
  | _ => rfl

theorem answer_withFb (r : Result) : answer (s.withFb m) (Result.withFb m r) = Result.withFb m (answer s r) := by
  cases r with
  | next => rfl
  | fault f => cases f
  | refused r => cases r <;> rfl

theorem serve_withFb (d : Decoded) : serve (s.withFb m) d = Result.withFb m (serve s d) := by
  cases d with
  | error e => exact answer_withFb { s with port := [] } m (.refused (refusalOfDecode e))
  | ok command =>
    obtain ⟨i, rest⟩ := command
    have performed := exec_withFb { s with port := rest } m i
    exact (congrArg (answer _) performed).trans (answer_withFb { s with port := rest } m _)

/-- While the port does not hold, the step does the same whatever the framebuffer, and writes none. -/
theorem step_withFb (free : s.held = false) : step (s.withFb m) = Result.withFb m (step s) := by
  by_cases empty : s.port = []
  · rw [step_of_portEmpty free empty]
    exact step_of_portEmpty (s := s.withFb m) free empty
  · rw [step_of_port free empty]
    exact (step_of_port (s := s.withFb m) free empty).trans (serve_withFb s m _)

/-- While the port does not hold, a step writes no framebuffer entry: it does the same with the framebuffer replaced by itself. -/
theorem step_fb_of_free {s t : State} (free : s.held = false) (h : step s = .next t) : t.fb = s.fb := by
  have same : step s = Result.withFb s.fb (step s) := step_withFb s s.fb free
  rw [h] at same
  have kept : t = t.withFb s.fb := Host.Outcome.next.inj same
  exact (congrArg State.fb kept :)

theorem State.beginRow_withFb (y : Nat) : (s.withFb m).beginRow y = (s.beginRow y).withFb m := by
  cases mode : s.pixelMode
  · cases fires : s.rowFires y
    · rw [State.beginRow_quiet mode fires]; exact State.beginRow_quiet (s := s.withFb m) mode fires
    · rw [State.beginRow_fires mode fires]; exact State.beginRow_fires (s := s.withFb m) mode fires
  · rw [State.beginRow_pixelMode mode]; exact State.beginRow_pixelMode (s := s.withFb m) mode y

theorem State.searchRow_withFb : (s.withFb m).searchRow = s.searchRow.withFb m := by
  rw [State.searchRow, (s.samePicture_withFb m).findSpritesRow]
  rfl

theorem State.beginPixel_withFb (x : Nat) : (s.withFb m).beginPixel x = (s.beginPixel x).withFb m := by
  cases fires : s.pixelFires
  · rw [State.beginPixel_quiet fires]; exact State.beginPixel_quiet (s := s.withFb m) fires x
  · rw [State.beginPixel_fires fires]; exact State.beginPixel_fires (s := s.withFb m) fires x

/-- The color composed for a pixel does not depend on the framebuffer (R172). -/
theorem State.pixelColor_withFb (x y : Nat) : (s.withFb m).pixelColor x y = s.pixelColor x y :=
  (s.samePicture_withFb m).pixelColor rfl rfl rfl x y

/-- A pixel's step does the same to everything but the framebuffer. -/
theorem State.drawPixel_withFb : (s.withFb m).drawPixel = s.drawPixel.withFb (s.withFb m).drawPixel.fb := by
  rw [State.drawPixel_eq s]
  exact State.drawPixel_eq (s.withFb m)

/-- A pixel's step writes the same color to the same entry whatever the framebuffer, or leaves the entry alone. -/
theorem State.fbAt_drawPixel_withFb (j : Nat) :
    (s.withFb m).drawPixel.fbAt j = s.drawPixel.fbAt j ∨
      (s.drawPixel.fbAt j = s.fbAt j ∧ (s.withFb m).drawPixel.fbAt j = Memory.find? m j) := by
  have own := s.fbAt_drawPixel j
  have other := (s.withFb m).fbAt_drawPixel j
  rw [State.pixelColor_withFb] at other
  by_cases hit : j = s.scanY.toNat * s.renderW.toNat + s.scanX.toNat ∧
      s.scanY.toNat * s.renderW.toNat + s.scanX.toNat < s.fbLen.toNat
  · exact .inl ((other.trans (if_pos hit)).trans (own.trans (if_pos hit)).symm)
  · exact .inr ⟨own.trans (if_neg hit), other.trans (if_neg hit)⟩

/-- Away from a pixel's composition a move of the scan does the same whatever the framebuffer, and writes none. -/
theorem State.scanStep_withFb (h : s.scanPoint ≠ .pixelBody) : (s.withFb m).scanStep = s.scanStep.withFb m := by
  rcases point : s.scanPoint with y | _ | x | _
  · rw [State.scanStep_rowHead point, State.scanStep_rowHead (s := s.withFb m) point, State.beginRow_withFb,
      apply_ite (State.withFb · m)]
    rfl
  · rw [State.scanStep_rowSearch point, State.scanStep_rowSearch (s := s.withFb m) point, State.searchRow_withFb]
  · rw [State.scanStep_pixelHead point, State.scanStep_pixelHead (s := s.withFb m) point, State.beginPixel_withFb,
      apply_ite (State.withFb · m)]
    rfl
  · exact absurd point h

end WithFb

/-- Settles O22: only a pixel's composition writes the framebuffer, one entry with a color that does not depend on it. -/
theorem theFramebufferIsNeverRead : Obligations.TheFramebufferIsNeverRead := by
  intro s t m h
  cases held : s.held
  · have other : step (s.withFb m) = .next (t.withFb m) := by rw [step_withFb s m held, h]; rfl
    have unwritten : t.fb = s.fb := step_fb_of_free held h
    exact ⟨m, other, fun j => .inr ⟨congrArg (Memory.find? · j) unwritten, rfl⟩⟩
  · cases (step_of_held held).symm.trans h
    have other : step (s.withFb m) = .next (s.withFb m).scanStep := step_of_held held
    by_cases body : s.scanPoint = .pixelBody
    · rw [State.scanStep_pixelBody body]
      rw [State.scanStep_pixelBody (s := s.withFb m) body, State.drawPixel_withFb] at other
      exact ⟨_, other, s.fbAt_drawPixel_withFb m⟩
    · rw [State.scanStep_withFb s m body] at other
      have unwritten : s.scanStep.fb = s.fb := s.scanStep_fb_cases.resolve_right body
      exact ⟨m, other, fun j => .inr ⟨congrArg (Memory.find? · j) unwritten, rfl⟩⟩

end Sys2Proof.Machine
end

