-- ==== Sys2Proof/Proofs/Encoding.lean ====
section
/-! SUPPORT. The statements about the command port's bytes (30_encoding.md): the decoder and the encoder are each other's inverse,
what decodes to no command, what a refusal answers, one response a command, and the bits of ATTR without effect (R76, R155). -/

namespace Sys2Proof

/-! ### What the encoder writes is read back -/

/-- The round trip of the family RoundTrip, command by command. -/
theorem Laws.roundTrip : ∀ i : Instr, RoundTrip.Statement i
  | .writePattern .. => RoundTrip.writePattern _ _ _
  | .readPatternPixel .. => RoundTrip.readPatternPixel _ _ _ _
  | .setTile .. => RoundTrip.setTile _ _ _ _
  | .setTilePalette .. => RoundTrip.setTilePalette _ _ _ _
  | .setBgPaletteColor .. => RoundTrip.setBgPaletteColor _ _ _
  | .setBgPalette .. => RoundTrip.setBgPalette _ _ _ _ _
  | .setBgPaletteBulk .. => RoundTrip.setBgPaletteBulk _ _
  | .setBgPatternTable .. => RoundTrip.setBgPatternTable _
  | .setBgColor .. => RoundTrip.setBgColor _
  | .readBgPalette .. => RoundTrip.readBgPalette _ _
  | .bgGet .. => RoundTrip.bgGet _ _
  | .setSprite .. => RoundTrip.setSprite _ _ _ _ _ _
  | .setSpritePosition .. => RoundTrip.setSpritePosition _ _ _
  | .setSpritePaletteColor .. => RoundTrip.setSpritePaletteColor _ _ _
  | .setSpritePalette .. => RoundTrip.setSpritePalette _ _ _ _ _
  | .setSpritePaletteBulk .. => RoundTrip.setSpritePaletteBulk _ _
  | .setSpritePatternTable .. => RoundTrip.setSpritePatternTable _
  | .readSpritePalette .. => RoundTrip.readSpritePalette _ _
  | .readSprite .. => RoundTrip.readSprite _
  | .findSprites .. => RoundTrip.findSprites _ _
  | .findSpritesRow .. => RoundTrip.findSpritesRow _
  | .setScroll .. => RoundTrip.setScroll _ _
  | .setCallback .. => RoundTrip.setCallback _
  | .render .. => RoundTrip.render _ _ _
  | .callbackReturn => RoundTrip.callbackReturn
  | .readCtrl .. => RoundTrip.readCtrl _

/-- Settles O1: each command's round trip (`Laws.roundTrip`). -/
theorem decodeOfEncodeIsTheCommand : Obligations.DecodeOfEncodeIsTheCommand := fun i rest wf => Laws.roundTrip i wf rest

/-- Settles O3: the decoder is run on each of the five words. -/
theorem specWordsDecode : Obligations.SpecWordsDecode := ⟨rfl, rfl, rfl, rfl, rfl⟩

/-! ### What the decoder reads is what the encoder writes -/

/-- `ReadsCommand bs d`: the decoder's answer `d` to the bytes `bs` is MALFORMED, or a well-formed command whose encoding `bs`
begins with, and the bytes after it. -/
inductive ReadsCommand (bs : List Byte) : Decoded → Prop where
  | cut : ReadsCommand bs (.error .malformed)
  | command {i : Instr} {rest : List Byte} (wf : i.wellFormed = true) (bytes : encode i ++ rest = bs) :
      ReadsCommand bs (.ok (i, rest))

namespace ReadsCommand

/-- A command read is well-formed, and its encoding comes first. -/
theorem ok {bs rest : List Byte} {i : Instr} (h : ReadsCommand bs (.ok (i, rest))) :
    i.wellFormed = true ∧ encode i ++ rest = bs := by
  cases h with
  | command wf bytes => exact ⟨wf, bytes⟩

/-! Each format's decoder reads a command, if its encoding is the opcode and the format's operands (R73). -/

section Formats

variable {op : Byte}

theorem b1 {k : Byte → Instr} (hk : ∀ a, (k a).wellFormed = true ∧ encode (k a) = [op, a]) (bs : List Byte) :
    ReadsCommand (op :: bs) (decodeB1 k bs) := by
  unfold decodeB1
  split
  · exact .command (hk _).1 (by rw [(hk _).2]; rfl)
  · exact .cut

theorem b2 {k : Byte → Byte → Instr} (hk : ∀ a b, (k a b).wellFormed = true ∧ encode (k a b) = [op, a, b])
    (bs : List Byte) : ReadsCommand (op :: bs) (decodeB2 k bs) := by
  unfold decodeB2
  split
  · exact .command (hk _ _).1 (by rw [(hk _ _).2]; rfl)
  · exact .cut

theorem b3 {k : Byte → Byte → Byte → Instr}
    (hk : ∀ a b c, (k a b c).wellFormed = true ∧ encode (k a b c) = [op, a, b, c]) (bs : List Byte) :
    ReadsCommand (op :: bs) (decodeB3 k bs) := by
  unfold decodeB3
  split
  · exact .command (hk _ _ _).1 (by rw [(hk _ _ _).2]; rfl)
  · exact .cut

theorem b4 {k : Byte → Byte → Byte → Byte → Instr}
    (hk : ∀ a b c d, (k a b c d).wellFormed = true ∧ encode (k a b c d) = [op, a, b, c, d]) (bs : List Byte) :
    ReadsCommand (op :: bs) (decodeB4 k bs) := by
  unfold decodeB4
  split
  · exact .command (hk _ _ _ _).1 (by rw [(hk _ _ _ _).2]; rfl)
  · exact .cut

theorem b5 {k : Byte → Byte → Byte → Byte → Byte → Instr}
    (hk : ∀ a b c d e, (k a b c d e).wellFormed = true ∧ encode (k a b c d e) = [op, a, b, c, d, e]) (bs : List Byte) :
    ReadsCommand (op :: bs) (decodeB5 k bs) := by
  unfold decodeB5
  split
  · exact .command (hk _ _ _ _ _).1 (by rw [(hk _ _ _ _ _).2]; rfl)
  · exact .cut

theorem xy {k : Half → Half → Instr}
    (hk : ∀ x y, (k x y).wellFormed = true ∧ encode (k x y) = op :: (bytes16 x ++ bytes16 y)) (bs : List Byte) :
    ReadsCommand (op :: bs) (decodeXY k bs) := by
  unfold decodeXY
  split
  · exact .command (hk _ _).1 (by simp [(hk _ _).2])
  · exact .cut

theorem yu {k : Half → Instr} (hk : ∀ y, (k y).wellFormed = true ∧ encode (k y) = op :: bytes16 y) (bs : List Byte) :
    ReadsCommand (op :: bs) (decodeYU k bs) := by
  unfold decodeYU
  split
  · exact .command (hk _).1 (by simp [(hk _).2])
  · exact .cut

theorem spr {k : Byte → Half → Half → Byte → Byte → Byte → Instr}
    (hk : ∀ slot x y tile pal attr, (k slot x y tile pal attr).wellFormed = true ∧
      encode (k slot x y tile pal attr) = op :: slot :: (bytes16 x ++ bytes16 y ++ [tile, pal, attr])) (bs : List Byte) :
    ReadsCommand (op :: bs) (decodeSpr k bs) := by
  unfold decodeSpr
  split
  · exact .command (hk _ _ _ _ _ _).1 (by simp [(hk _ _ _ _ _ _).2])
  · exact .cut

theorem sprPos {k : Byte → Half → Half → Instr}
    (hk : ∀ slot x y, (k slot x y).wellFormed = true ∧ encode (k slot x y) = op :: slot :: (bytes16 x ++ bytes16 y))
    (bs : List Byte) : ReadsCommand (op :: bs) (decodeSprPos k bs) := by
  unfold decodeSprPos
  split
  · exact .command (hk _ _ _).1 (by simp [(hk _ _ _).2])
  · exact .cut

theorem render {k : Half → Half → Word → Instr}
    (hk : ∀ w h len, (k w h len).wellFormed = true ∧ encode (k w h len) = op :: (bytes16 w ++ bytes16 h ++ bytes32 len))
    (bs : List Byte) : ReadsCommand (op :: bs) (decodeRender k bs) := by
  unfold decodeRender
  split
  · exact .command (hk _ _ _).1 (by simp [(hk _ _ _).2])
  · exact .cut

/-- A payload is cut short, or is followed by the rest. -/
theorem payload {k : List Byte → Instr} {n : Nat} {head : List Byte}
    (hk : ∀ payload, payload.length = n → (k payload).wellFormed = true ∧ encode (k payload) = head ++ payload)
    (bs : List Byte) : ReadsCommand (head ++ bs) (decodePayload k n bs) := by
  by_cases short : bs.length < n
  · rw [decodePayload_short k short]
    exact .cut
  · have whole : (bs.take n).length = n := List.length_take_of_le (by omega)
    have read := decodePayload_append k whole (bs.drop n)
    rw [List.take_append_drop] at read
    obtain ⟨wf, bytes⟩ := hk _ whole
    rw [read]
    exact .command wf (by rw [bytes, List.append_assoc, List.take_append_drop])

/-- The count field of F_BULK names the payload's length. -/
theorem bulk {k : Byte → List Byte → Instr}
    (hk : ∀ pal colors, (k pal colors).wellFormed = decide (colors.length < 65536) ∧
      encode (k pal colors) = encodeBulk op pal colors) (bs : List Byte) :
    ReadsCommand (op :: bs) (decodeBulk k bs) := by
  unfold decodeBulk
  split
  next pal n0 n1 rest =>
    refine payload (head := [op, pal, n0, n1]) (fun colors length => ?_) rest
    rw [(hk _ _).1, (hk _ _).2, encodeBulk, length, BitVec.ofNat_toNat, BitVec.setWidth_eq, bytes16_le16]
    exact ⟨decide_eq_true (le16 n0 n1).isLt, rfl⟩
  · exact .cut

/-- The count field of F_PAT names the payload's length. -/
theorem pat {k : Byte → Byte → List Byte → Instr}
    (hk : ∀ table start pixels, (k table start pixels).wellFormed = decide (pixels.length < 4294967296) ∧
      encode (k table start pixels) = op :: table :: start :: (bytes32 (BitVec.ofNat 32 pixels.length) ++ pixels))
    (bs : List Byte) : ReadsCommand (op :: bs) (decodePat k bs) := by
  unfold decodePat
  split
  next table start n0 n1 n2 n3 rest =>
    refine payload (head := [op, table, start, n0, n1, n2, n3]) (fun pixels length => ?_) rest
    rw [(hk _ _ _).1, (hk _ _ _).2, length, BitVec.ofNat_toNat, BitVec.setWidth_eq, bytes32_le32]
    exact ⟨decide_eq_true (le32 n0 n1 n2 n3).isLt, rfl⟩
  · exact .cut

end Formats

/-- An opcode byte is known by its number. -/
theorem of_toNat (c : Byte) {op : Byte} {bs : List Byte} {d : Decoded} (h : op.toNat = c.toNat)
    (reads : ReadsCommand (c :: bs) d) : ReadsCommand (op :: bs) d := BitVec.eq_of_toNat_eq h ▸ reads

end ReadsCommand

/-! ### The reserved opcodes -/

/-- The reserved opcode bytes (R78). -/
def ReservedOpcode (op : Byte) : Prop :=
  op.toNat ≤ 0x0F ∨ (0x12 ≤ op.toNat ∧ op.toNat ≤ 0x1F) ∨ (0x29 ≤ op.toNat ∧ op.toNat ≤ 0x2F) ∨
    (0x3A ≤ op.toNat ∧ op.toNat ≤ 0x3F) ∨ 0x45 ≤ op.toNat

/-- No row of the opcode map has a reserved opcode. -/
theorem decode_of_reserved {op : Byte} (h : ReservedOpcode op) (bs : List Byte) :
    decode (op :: bs) = .error .illegalOpcode := by
  unfold ReservedOpcode at h
  rw [decode, decodeOperands]
  split
  case h_27 => rfl
  all_goals omega

/-- Every other opcode has a row, whose command's encoding begins with that opcode (R74). -/
theorem decode_readsCommand {op : Byte} (h : ¬ReservedOpcode op) (bs : List Byte) :
    ReadsCommand (op :: bs) (decode (op :: bs)) := by
  rw [decode, decodeOperands]
  split
  next hop => exact .of_toNat 0x10 hop (.pat (fun _ _ _ => ⟨rfl, rfl⟩) bs)
  next hop => exact .of_toNat 0x11 hop (.b4 (fun _ _ _ _ => ⟨rfl, rfl⟩) bs)
  next hop => exact .of_toNat 0x20 hop (.b4 (fun _ _ _ _ => ⟨rfl, rfl⟩) bs)
  next hop => exact .of_toNat 0x21 hop (.b4 (fun _ _ _ _ => ⟨rfl, rfl⟩) bs)
  next hop => exact .of_toNat 0x22 hop (.b3 (fun _ _ _ => ⟨rfl, rfl⟩) bs)
  next hop => exact .of_toNat 0x23 hop (.b5 (fun _ _ _ _ _ => ⟨rfl, rfl⟩) bs)
  next hop => exact .of_toNat 0x24 hop (.bulk (fun _ _ => ⟨rfl, rfl⟩) bs)
  next hop => exact .of_toNat 0x25 hop (.b1 (fun _ => ⟨rfl, rfl⟩) bs)
  next hop => exact .of_toNat 0x26 hop (.b1 (fun _ => ⟨rfl, rfl⟩) bs)
  next hop => exact .of_toNat 0x27 hop (.b2 (fun _ _ => ⟨rfl, rfl⟩) bs)
  next hop => exact .of_toNat 0x28 hop (.xy (fun _ _ => ⟨rfl, rfl⟩) bs)
  next hop => exact .of_toNat 0x30 hop (.spr (fun _ _ _ _ _ _ => ⟨rfl, rfl⟩) bs)
  next hop => exact .of_toNat 0x31 hop (.sprPos (fun _ _ _ => ⟨rfl, rfl⟩) bs)
  next hop => exact .of_toNat 0x32 hop (.b3 (fun _ _ _ => ⟨rfl, rfl⟩) bs)
  next hop => exact .of_toNat 0x33 hop (.b5 (fun _ _ _ _ _ => ⟨rfl, rfl⟩) bs)
  next hop => exact .of_toNat 0x34 hop (.bulk (fun _ _ => ⟨rfl, rfl⟩) bs)
  next hop => exact .of_toNat 0x35 hop (.b1 (fun _ => ⟨rfl, rfl⟩) bs)
  next hop => exact .of_toNat 0x36 hop (.b2 (fun _ _ => ⟨rfl, rfl⟩) bs)
  next hop => exact .of_toNat 0x37 hop (.b1 (fun _ => ⟨rfl, rfl⟩) bs)
  next hop => exact .of_toNat 0x38 hop (.xy (fun _ _ => ⟨rfl, rfl⟩) bs)
  next hop => exact .of_toNat 0x39 hop (.yu (fun _ => ⟨rfl, rfl⟩) bs)
  next hop => exact .of_toNat 0x40 hop (.xy (fun _ _ => ⟨rfl, rfl⟩) bs)
  next hop => exact .of_toNat 0x41 hop (.b1 (fun _ => ⟨rfl, rfl⟩) bs)
  next hop => exact .of_toNat 0x42 hop (.render (fun _ _ _ => ⟨rfl, rfl⟩) bs)
  next hop => exact .of_toNat 0x43 hop (.command rfl rfl)
  next hop => exact .of_toNat 0x44 hop (.b1 (fun _ => ⟨rfl, rfl⟩) bs)
  next => grind [ReservedOpcode] -- no row matches, so the opcode is reserved

/-- The opcode alone decides whether the refusal is ILLEGAL_OPCODE (R78, R202). -/
theorem decode_illegalOpcode_iff (op : Byte) (bs : List Byte) :
    decode (op :: bs) = .error .illegalOpcode ↔ ReservedOpcode op := by
  refine ⟨fun illegal => ?_, fun reserved => decode_of_reserved reserved bs⟩
  by_contra reserved
  have reads := decode_readsCommand reserved bs
  rw [illegal] at reads
  cases reads

/-- Settles O2: a reserved opcode decodes to nothing, and of any other what is read is an encoding. -/
theorem decodedBytesAreTheEncoding : Obligations.DecodedBytesAreTheEncoding := by
  intro bs i rest h
  cases bs with
  | nil => cases h
  | cons op bs =>
    by_cases reserved : ReservedOpcode op
    · cases (decode_of_reserved reserved bs).symm.trans h
    · have reads := decode_readsCommand reserved bs
      rw [h] at reads
      exact reads.ok

/-- Bytes put after a stream that begins a command do not change the command: they are left over with the rest (R71). -/
theorem decode_append {front rest : List Byte} {i : Instr} (h : decode front = .ok (i, rest)) (back : List Byte) :
    decode (front ++ back) = .ok (i, rest ++ back) := by
  obtain ⟨wf, rfl⟩ := decodedBytesAreTheEncoding front i rest h
  rw [List.append_assoc]
  exact decodeOfEncodeIsTheCommand i (rest ++ back) wf

/-- A command cut short is malformed (R75): its opcode is not reserved, and a command read from the front part would be the one
read from the whole, with the part cut off left over, where the whole leaves nothing over. -/
theorem decode_cut {i : Instr} {front back : List Byte} (wf : i.wellFormed = true) (cut : encode i = front ++ back)
    (hfront : front ≠ []) (hback : back ≠ []) : decode front = .error .malformed := by
  have whole : decode (front ++ back) = .ok (i, []) := by
    rw [← cut, ← List.append_nil (encode i)]
    exact decodeOfEncodeIsTheCommand i [] wf
  cases answer : decode front with
  | error e =>
    cases e with
    | malformed => rfl
    | illegalOpcode =>
      obtain ⟨op, bs, rfl⟩ := List.exists_cons_of_ne_nil hfront
      have reserved := (decode_illegalOpcode_iff op bs).mp answer
      cases (decode_of_reserved reserved (bs ++ back)).symm.trans whole
  | ok read =>
    obtain ⟨j, rest⟩ := read
    have same : (.ok (j, rest ++ back) : Decoded) = .ok (i, []) := (decode_append answer back).symm.trans whole
    have leftOver : rest ++ back = [] := (Prod.mk.inj (Except.ok.inj same)).2
    exact absurd (List.append_eq_nil_iff.mp leftOver).2 hback

end Sys2Proof

namespace Sys2Proof.Machine

/-! ### Refusals and responses -/

/-- Settles O4: the opcode decides (`decode_illegalOpcode_iff`), and the step rejects the stream. -/
theorem reservedOpcodesAreRefused : Obligations.ReservedOpcodesAreRefused := by
  intro op bs
  refine ⟨decode_illegalOpcode_iff op bs, fun s free port illegal => ?_⟩
  rw [← port] at illegal
  exact step_of_decode_error free (by simp [port]) illegal

/-- Settles O5: a cut command is malformed (`decode_cut`), and the step rejects the stream. -/
theorem cutCommandsAreMalformed : Obligations.CutCommandsAreMalformed := by
  intro i front back wf cut hfront hback
  have malformed := decode_cut wf cut hfront hback
  refine ⟨malformed, ?_⟩
  rintro s free rfl
  exact step_of_decode_error free hfront malformed

/-- Settles O11: the cause is one of three (`exec_refused_cases`), each with its code. -/
theorem refusedCommandsAnswerTheirCodeOnly : Obligations.RefusedCommandsAnswerTheirCodeOnly := by
  intro s i rest r free read refused
  obtain ⟨-, rfl, -⟩ | ⟨-, rfl, -⟩ | ⟨rfl, -⟩ := exec_refused_cases refused
  · exact ⟨0x02, .inl ⟨rfl, rfl⟩, step_of_exec_refused free read refused rfl⟩
  · exact ⟨0x03, .inr (.inl ⟨rfl, rfl⟩), step_of_exec_refused free read refused rfl⟩
  · exact ⟨0x04, .inr (.inr ⟨rfl, rfl⟩), step_of_exec_refused free read refused rfl⟩

/-- The responses sent, and one more while a render still owes its own. -/
def State.responsesDue (s : State) : Nat := s.responses.length + if s.busy then 1 else 0

/-- One response, and BUSY as it was. -/
theorem State.responsesDue_of_response {s t : State} {r : List Byte} (sent : t.responses = s.responses ++ [r])
    (busy : t.busy = s.busy) : t.responsesDue = s.responsesDue + 1 := by
  simp only [State.responsesDue, sent, busy, List.length_append, List.length_singleton]
  omega

/-- A step of the scan owes nothing new: the render's end sends the response that was due. -/
theorem State.responsesDue_scanStep {s : State} (busy : s.busy = true) : s.scanStep.responsesDue = s.responsesDue := by
  obtain ⟨same, sent⟩ | ⟨ends, -⟩ := s.scanStep_busy_cases
  · simp only [State.responsesDue, same, sent]
  · simp [ends, State.endRender, State.responsesDue, busy]

/-- A performed command responds, or starts the render that will. -/
theorem exec_responsesDue {i : Instr} {s t : State} (h : exec i s = .next t) : t.responsesDue = s.responsesDue + 1 := by
  obtain ⟨_, _, _, -, idle, rfl⟩ | ⟨⟨r, sent⟩, busy, -⟩ := exec_next_cases h
  · simp [State.responsesDue, idle]
  · exact State.responsesDue_of_response sent busy

/-- Settles O15: the count of `responsesDue` grows by one exactly when the port is served. -/
theorem eachCommandGetsExactlyOneResponse : Obligations.EachCommandGetsExactlyOneResponse := by
  intro s t h
  show t.responsesDue = s.responsesDue + _
  obtain hscan | hidle | hperformed | hrefused | hrejected := step_cases h
  · obtain ⟨held, rfl⟩ := hscan
    rw [if_neg (by simp [held])]
    exact State.responsesDue_scanStep (s.held_iff.mp held).1
  · obtain ⟨-, empty, rfl⟩ := hidle
    rw [if_neg (by simp [empty])]
    rfl
  · obtain ⟨free, bytes, _, rest, -, hexec⟩ := hperformed
    rw [if_pos ⟨free, bytes⟩]
    exact exec_responsesDue (s := { s with port := rest }) hexec
  · obtain ⟨free, bytes, _, _, _, _, -, -, -, rfl⟩ := hrefused
    rw [if_pos ⟨free, bytes⟩]
    exact State.responsesDue_of_response rfl rfl
  · obtain ⟨free, bytes, _, _, -, -, rfl⟩ := hrejected
    rw [if_pos ⟨free, bytes⟩]
    exact State.responsesDue_of_response rfl rfl

/-! ### The bits of ATTR without effect -/

/-- Two sprites that differ in the bits 7:1 of ATTR at most: the flip bits and the reserved ones (R76). -/
structure Sprite.SameButFlips (p q : Sprite) : Prop where
  x : q.x = p.x
  y : q.y = p.y
  tile : q.tile = p.tile
  pal : q.pal = p.pal
  priorityBack : attrPriorityBack q.attr = attrPriorityBack p.attr

namespace Sprite.SameButFlips

variable {p q : Sprite}

theorem hitX (h : p.SameButFlips q) (x : Nat) : q.hitX x = p.hitX x := by simp only [Sprite.hitX, h.x]

theorem hitRow (h : p.SameButFlips q) (y : Nat) : q.hitRow y = p.hitRow y := by
  simp only [Sprite.hitRow, Sprite.live, Sprite.hitY, h.tile, h.y]

theorem hitPix (h : p.SameButFlips q) (x y : Nat) : q.hitPix x y = p.hitPix x y := by
  simp only [Sprite.hitPix, Sprite.live, Sprite.hitY, h.hitX, h.tile, h.y]

end Sprite.SameButFlips

section FlipBits

variable {s s' : State} (hs : s' = { s with spr := s'.spr }) (same : ∀ i, (s.sprAt i).SameButFlips (s'.sprAt i))

include same in
/-- A search whose hits do not look at the flip bits finds the same. -/
theorem State.search_sameButFlips {hit : Sprite → Bool} (hhit : ∀ p q, Sprite.SameButFlips p q → hit q = hit p) :
    s'.search hit = s.search hit := by
  simp only [State.search_eq, fun i => hhit _ _ (same i), fun i => (same i).priorityBack]

include same in
theorem State.findSpritesPixel_sameButFlips (x y : Nat) : s'.findSpritesPixel x y = s.findSpritesPixel x y :=
  State.search_sameButFlips same fun _ _ h => h.hitPix x y

include same in
theorem State.findSpritesRow_sameButFlips (y : Nat) : s'.findSpritesRow y = s.findSpritesRow y :=
  State.search_sameButFlips same fun _ _ h => h.hitRow y

include hs same

/-- A sprite's pixel is read unflipped (R154). -/
theorem State.sprPixel_sameButFlips (i x y : Nat) : s'.sprPixel i x y = s.sprPixel i x y := by
  have table : s'.sprPtSel = s.sprPtSel := by rw [hs]
  have pattern (t p : Nat) (dx dy : Int) : s'.px t p dx dy = s.px t p dx dy := by rw [hs]; rfl
  simp only [State.sprPixel, table, pattern, (same i).x, (same i).y, (same i).tile]

theorem State.firstOpaque_sameButFlips (x y : Nat) (l : List Nat) : s'.firstOpaque x y l = s.firstOpaque x y l := by
  have color (q c : Nat) : s'.sprPalAt q c = s.sprPalAt q c := by rw [hs]; rfl
  induction l with
  | nil => rfl
  | cons i l ih => simp only [State.firstOpaque, State.sprPixel_sameButFlips hs same, color, (same i).pal, ih]

theorem State.composite_sameButFlips (x y : Nat) (front back : List Nat) :
    s'.composite x y front back = s.composite x y front back := by
  have background : s'.bgOpaque x y = s.bgOpaque x y := by rw [hs]; rfl
  have fallback : s'.bgColor = s.bgColor := by rw [hs]
  simp only [State.composite, State.firstOpaque_sameButFlips hs same, background, fallback]

theorem State.pixelSprites_sameButFlips (x y : Nat) : s'.pixelSprites x y = s.pixelSprites x y := by
  have mode : s'.pixelMode = s.pixelMode := by rw [hs]; rfl
  have front : s'.rowFront = s.rowFront := by rw [hs]
  have back : s'.rowBack = s.rowBack := by rw [hs]
  simp only [State.pixelSprites, mode, front, back, State.findSpritesPixel_sameButFlips same, fun i => (same i).hitX x]

end FlipBits

/-- Settles O42: of ATTR a search reads PRIORITY_BACK alone, and a pixel nothing. -/
theorem flipAndReservedBitsHaveNoEffect : Obligations.FlipAndReservedBitsHaveNoEffect := by
  intro s s' hs agree x y
  have same (i : Nat) : (s.sprAt i).SameButFlips (s'.sprAt i) := by
    obtain ⟨hx, hy, tile, pal, priorityBack⟩ := agree i
    exact ⟨hx, hy, tile, pal, priorityBack⟩
  have composite := State.composite_sameButFlips hs same x y
  refine ⟨State.findSpritesPixel_sameButFlips same x y, State.findSpritesRow_sameButFlips same y, composite, ?_⟩
  rw [State.pixelColor, State.pixelSprites_sameButFlips hs same]
  exact composite _ _

end Sys2Proof.Machine
end

