-- ==== Sys2Proof/Proofs/Pattern.lean ====
section
/-! SUPPORT. The statements about pattern storage (40_pattern.md): where WRITE_PATTERN's payload goes and what it leaves alone
(R101), and the pixel READ_PATTERN_PIXEL responds (R102). -/

namespace Sys2Proof

/-- A counted pattern payload is read whole, and the bytes after it are left over (R71, R73). -/
theorem decodePat_append (k : Byte → Byte → List Byte → Instr) (table start n0 n1 n2 n3 : Byte) {pixels : List Byte}
    (h : pixels.length = (le32 n0 n1 n2 n3).toNat) (rest : List Byte) :
    decodePat k (table :: start :: n0 :: n1 :: n2 :: n3 :: (pixels ++ rest)) = .ok (k table start pixels, rest) :=
  decodePayload_append (k table start) h rest

end Sys2Proof

namespace Sys2Proof.Machine

/-! ### What a pixel reads after WRITE_PATTERN -/

/-- The last payload byte for a place, the one with fewer than 16384 bytes (256 patterns) after it, is the place's pixel. -/
theorem State.ptAt_writePatterns_last (s : State) (t start : Nat) (pixels : List Byte) {k : Nat} (hk : k < pixels.length)
    (last : pixels.length ≤ k + 16384) :
    (s.writePatterns t start pixels).ptAt t ((start + k / 64) % 256) (k % 64 / 8) (k % 64 % 8) = pixelValue pixels[k] := by
  simpa [State.ptAt] using patternWriteFrom_last s.pt t start 0 pixels k hk last

/-- A place of another table, or one no payload byte goes to, keeps its pixel. -/
theorem State.ptAt_writePatterns_other (s : State) (t start : Nat) (pixels : List Byte) {q p y x : Nat} (hp : p < 256)
    (hy : y < 8) (hx : x < 8)
    (unhit : q ≠ t ∨ ∀ k, k < pixels.length → ¬((start + k / 64) % 256 = p ∧ k % 64 = 8 * y + x)) :
    (s.writePatterns t start pixels).ptAt q p y x = s.ptAt q p y x :=
  patternWriteFrom_other s.pt t start 0 pixels hp hy hx (by simpa using unhit)

/-- Settles O23: the payload is read whole (`decodePat_append`), and each pixel is the last byte written to it or what it was. -/
theorem writePatternStoresThePayload : Obligations.WritePatternStoresThePayload := by
  refine ⟨fun table start n0 n1 n2 n3 pixels rest length => decodePat_append _ table start n0 n1 n2 n3 length rest, ?_⟩
  intro table start pixels s
  refine ⟨(s.writePatterns (tableIndex table) start.toNat pixels).respondOk [], rfl, rfl, ?_, ?_⟩
  · intro k hk last
    exact s.ptAt_writePatterns_last (tableIndex table) start.toNat pixels hk last
  · intro q p y x hp hy hx unhit
    exact s.ptAt_writePatterns_other (tableIndex table) start.toNat pixels hp hy hx unhit

/-! ### The pixel read primitive -/

/-- Read at four operand bytes, only the table and the coordinates wrap: a byte is below 256. -/
theorem State.px_bytes (s : State) (table pattern x y : Byte) :
    s.px table.toNat pattern.toNat x.toNat y.toNat =
      s.ptAt (table.toNat % 2) pattern.toNat (y.toNat % 8) (x.toNat % 8) := by
  have coordinate (b : Byte) : ((b.toNat : Int) % 8).toNat = b.toNat % 8 := by omega
  rw [State.px, Nat.mod_eq_of_lt pattern.isLt, coordinate, coordinate]

/-- Settles O24: the response is the primitive's pixel at the four operands (`State.px_bytes`). -/
theorem readPatternPixelRespondsThePixel : Obligations.ReadPatternPixelRespondsThePixel := by
  refine ⟨fun _ _ _ _ _ => rfl, fun _ _ _ _ _ => rfl, fun table pattern x y s => ?_⟩
  rw [← State.px_bytes]
  rfl

end Sys2Proof.Machine
end

