-- ==== Sys2Proof/Proofs/Background.lean ====
section
/-! SUPPORT. The statements about the background plane (41_background.md) and, with them, those about the sprite bank's palettes
and selector that the same operations settle (42_sprite.md): the tile addresser, the table, palette and selector commands, and
what the reads respond. -/

namespace Sys2Proof

/-- A counted palette payload is read whole, and the bytes after it are left over (R71, R73). -/
theorem decodeBulk_append (k : Byte → List Byte → Instr) (pal n0 n1 : Byte) {colors : List Byte}
    (h : colors.length = (le16 n0 n1).toNat) (rest : List Byte) :
    decodeBulk k (pal :: n0 :: n1 :: (colors ++ rest)) = .ok (k pal colors, rest) :=
  decodePayload_append (k pal) h rest

end Sys2Proof

namespace Sys2Proof.Machine

/-! ### The tile addresser -/

@[simp] theorem ntSelect_single (sx sy : Nat) : ntSelect .single sx sy = (0, sx, sy) := rfl

@[simp] theorem ntSelect_vertical (sx sy : Nat) : ntSelect .vertical sx sy = (sx / 256, sx % 256, sy) := rfl

@[simp] theorem ntSelect_horizontal (sx sy : Nat) : ntSelect .horizontal sx sy = (sy / 240, sx, sy % 240) := rfl

/-- A coordinate inside the plane selects a name table that exists and a local coordinate inside it (R110). -/
theorem ntSelect_inRange {m : Mirroring} {sx sy : Nat} (hx : sx < extentW m) (hy : sy < extentH m) :
    (ntSelect m sx sy).1 < ntCount m ∧ (ntSelect m sx sy).2.1 < 256 ∧ (ntSelect m sx sy).2.2 < 240 := by
  cases m with
  | single => exact ⟨Nat.one_pos, hx, hy⟩
  | vertical => exact ⟨Nat.div_lt_of_lt_mul hx, Nat.mod_lt sx (by decide), hy⟩
  | horizontal => exact ⟨Nat.div_lt_of_lt_mul hy, hx, Nat.mod_lt sy (by decide)⟩

/-- A plane coordinate is its name table's origin plus the local coordinate, so the selection determines it. -/
theorem ntSelect_injective {m : Mirroring} {sx sy sx' sy' : Nat} (h : ntSelect m sx sy = ntSelect m sx' sy') :
    sx = sx' ∧ sy = sy' := by
  cases m <;> simp only [ntSelect_single, ntSelect_vertical, ntSelect_horizontal, Prod.mk.injEq] at h <;> omega

/-- Settles O25: the selection mode by mode, its range and its injectivity. -/
theorem nameTableSelectionCoversThePlane : Obligations.NameTableSelectionCoversThePlane :=
  ⟨⟨rfl, rfl, rfl, rfl, rfl, rfl⟩, fun _ _ => ⟨rfl, rfl, rfl⟩,
    fun _ _ _ hx hy => ⟨ntSelect_inRange hx hy, fun _ _ _ _ => ntSelect_injective⟩⟩

/-- Read at an existing table, a pattern and a local pixel offset, the pixel primitive wraps nothing. -/
theorem State.px_inRange (s : State) {t p x y : Nat} (ht : t < 2) (hp : p < 256) (hx : x < 8) (hy : y < 8) :
    s.px t p x y = s.ptAt t p y x := by
  have coordinate {c : Nat} (hc : c < 8) : ((c : Int) % 8).toNat = c := by omega
  rw [State.px, Nat.mod_eq_of_lt ht, Nat.mod_eq_of_lt hp, coordinate hx, coordinate hy]

section Lookup

variable {s : State} {sx sy n lx ly : Nat}

/-- What the lookup reads once the name table and the local coordinate are known (R111). -/
theorem State.bgLookup_of_ntSelect (select : ntSelect s.mirroring sx sy = (n, lx, ly)) :
    s.bgLookup sx sy =
      (s.tileAt n (ly / 8) (lx / 8), s.blockAt n (ly / 16) (lx / 16),
       s.ptAt s.bgPtSel.toNat (s.tileAt n (ly / 8) (lx / 8)).toNat (ly % 8) (lx % 8)) := by
  have pixel := s.px_inRange s.bgPtSel.isLt (s.tileAt n (ly / 8) (lx / 8)).isLt (Nat.mod_lt lx (by decide))
    (Nat.mod_lt ly (by decide))
  rw [State.bgLookup, select, ← pixel]

/-- The palette selector at a plane coordinate is its block's. -/
theorem State.bgLookup_selector (select : ntSelect s.mirroring sx sy = (n, lx, ly)) :
    (s.bgLookup sx sy).2.1 = s.blockAt n (ly / 16) (lx / 16) := by
  rw [State.bgLookup_of_ntSelect select]

/-- BG_GET responds the tile entry and the block entry of the coordinate that the reduced operands select (R121). -/
theorem exec_bgGet_of_ntSelect {x y : Half}
    (select : ntSelect s.mirroring (x.toNat % extentW s.mirroring) (y.toNat % extentH s.mirroring) = (n, lx, ly)) :
    exec (.bgGet x y) s =
      .next (s.respondOk [s.tileAt n (ly / 8) (lx / 8), (s.blockAt n (ly / 16) (lx / 16)).setWidth 8]) := by
  rw [exec, execBgGet, State.bgLookup_of_ntSelect select]

end Lookup

/-- Settles O26: `State.bgLookup_of_ntSelect`. -/
theorem backgroundLookupReadsTileBlockAndPattern : Obligations.BackgroundLookupReadsTileBlockAndPattern :=
  fun _ _ _ _ _ _ => State.bgLookup_of_ntSelect

/-- Settles O35: in each mirroring mode the reduced coordinates select the name table and the local coordinate given. -/
theorem bgGetRespondsTileAndSelector : Obligations.BgGetRespondsTileAndSelector := by
  refine ⟨fun _ _ _ _ _ => rfl, fun x y s n lx ly place => exec_bgGet_of_ntSelect ?_⟩
  have wide : x.toNat % 512 % 256 = x.toNat % 256 := Nat.mod_mod_of_dvd _ (by decide)
  have tall : y.toNat % 480 % 240 = y.toNat % 240 := Nat.mod_mod_of_dvd _ (by decide)
  cases mode : s.mirroring <;> rw [mode] at place <;> obtain ⟨rfl, rfl, rfl⟩ := place
  case single => rfl
  case vertical => rw [ntSelect_vertical, extentW, wide]; rfl
  case horizontal => rw [ntSelect_horizontal, extentH, tall]; rfl

/-! ### Tiles and blocks -/

/-- Settles O27: the entry written is read back, any other is as before (`State.tileAt_writeTile`). -/
theorem setTileWritesOneTile : Obligations.SetTileWritesOneTile :=
  ⟨fun _ _ _ _ _ => rfl, fun _ x y pattern s =>
    ⟨_, rfl, rfl, fun _ _ _ hy hx => s.tileAt_writeTile (tileRow_lt y) (tileColumn_lt x) pattern hy hx⟩⟩

/-- On the plane, a block write shows at the pixels of the block's 2×2 tiles and at no other (R113). -/
theorem State.bgLookup_writeBlock_selector (s : State) {n yb xb : Nat} (hyb : yb < 15) (hxb : xb < 16) (v : BitVec 2)
    {sx sy n' lx ly : Nat} (hx : sx < extentW s.mirroring) (hy : sy < extentH s.mirroring)
    (select : ntSelect s.mirroring sx sy = (n', lx, ly)) :
    ((s.writeBlock n yb xb v).bgLookup sx sy).2.1 =
      if n' = n ∧ lx / 8 / 2 = xb ∧ ly / 8 / 2 = yb then v else (s.bgLookup sx sy).2.1 := by
  have range := ntSelect_inRange hx hy
  rw [select] at range
  obtain ⟨-, hlx, hly⟩ := range
  have row : ly / 16 < 15 := Nat.div_lt_of_lt_mul hly
  have column : lx / 16 < 16 := Nat.div_lt_of_lt_mul hlx
  rw [State.bgLookup_selector (s := s.writeBlock n yb xb v) select, State.bgLookup_selector select,
    s.blockAt_writeBlock hyb hxb v row column, Nat.div_div_eq_div_mul, Nat.div_div_eq_div_mul]
  exact if_congr (and_congr_right' and_comm) rfl rfl

/-- Settles O28: the block entry alone (`State.blockAt_writeBlock`) and the pixels it governs
(`State.bgLookup_writeBlock_selector`). -/
theorem setTilePaletteWritesOneBlock : Obligations.SetTilePaletteWritesOneBlock := by
  refine ⟨fun _ _ _ _ _ => rfl, fun nt x y pal s => ⟨_, rfl, rfl, ?_, ?_⟩⟩
  · intro n yb xb hyb hxb
    exact s.blockAt_writeBlock (blockRow_lt y) (blockColumn_lt x) (paletteSelector pal) hyb hxb
  · intro sx sy n lx ly hx hy select
    exact s.bgLookup_writeBlock_selector (blockRow_lt y) (blockColumn_lt x) (paletteSelector pal) hx hy select

/-! ### Palettes, on either bank -/

section Palettes

variable (m : Table Byte) (pal : Nat)

/-- The last color for an entry, the one with fewer than 16 (4 palettes) after it, is what the entry holds (R114). -/
theorem palWriteBulk_last (colors : List Byte) {k : Nat} (hk : k < colors.length) (last : colors.length ≤ k + 16) :
    Memory.get unlistedByte (palWriteBulk m pal colors) (palKey ((pal + k / 4) % 4) (k % 4)) = colors[k] := by
  simpa [palWriteBulk] using palWriteFrom_last m pal 0 colors k hk last

/-- An entry no color goes to keeps its value. -/
theorem palWriteBulk_other (colors : List Byte) {q i : Nat} (hi : i < 4)
    (unhit : ∀ k, k < colors.length → ¬((pal + k / 4) % 4 = q ∧ k % 4 = i)) :
    Memory.get unlistedByte (palWriteBulk m pal colors) (palKey q i) = Memory.get unlistedByte m (palKey q i) :=
  palWriteFrom_other m pal 0 colors hi (by simpa using unhit)

/-- Four colors are the four entries of one palette (R116, R143). -/
theorem palWriteBulk_four_get (c0 c1 c2 c3 : Byte) {q i : Nat} (hi : i < 4) :
    Memory.get unlistedByte (palWriteBulk m pal [c0, c1, c2, c3]) (palKey q i) =
      if q = pal % 4 then [c0, c1, c2, c3].getD i 0 else Memory.get unlistedByte m (palKey q i) := by
  split
  next own =>
    have written := palWriteBulk_last m pal [c0, c1, c2, c3] (k := i) hi (show 4 ≤ i + 16 by omega)
    rw [Nat.div_eq_of_lt hi, Nat.mod_eq_of_lt hi, Nat.add_zero, ← own] at written
    rw [written, List.getD_eq_getElem]
  next other =>
    refine palWriteBulk_other m pal _ hi fun k hk hit => other ?_
    rw [← hit.1, show k / 4 = 0 from Nat.div_eq_of_lt hk, Nat.add_zero]

end Palettes

/-- Settles O29, both banks by `palWriteOne_get`. -/
theorem paletteColorCommandsWriteOneEntry : Obligations.PaletteColorCommandsWriteOneEntry :=
  ⟨fun _ _ _ _ => ⟨rfl, rfl⟩, fun pal slot color s =>
    ⟨⟨_, rfl, rfl, fun _ _ hi => palWriteOne_get s.bgPal pal.toNat slot.toNat color hi⟩,
      ⟨_, rfl, rfl, fun _ _ hi => palWriteOne_get s.sprPal pal.toNat slot.toNat color hi⟩⟩⟩

/-- Settles O30, both banks by `palWriteBulk_four_get`. -/
theorem paletteCommandsWriteFourEntries : Obligations.PaletteCommandsWriteFourEntries :=
  ⟨fun _ _ _ _ _ _ => ⟨rfl, rfl⟩, fun pal c0 c1 c2 c3 s =>
    ⟨⟨_, rfl, rfl, fun _ _ hi => palWriteBulk_four_get s.bgPal pal.toNat c0 c1 c2 c3 hi⟩,
      ⟨_, rfl, rfl, fun _ _ hi => palWriteBulk_four_get s.sprPal pal.toNat c0 c1 c2 c3 hi⟩⟩⟩

/-- Settles O31: the payload is read whole (`decodeBulk_append`), and each entry of either bank is the last color written to it
or what it was. -/
theorem paletteBulkCommandsWriteTheSpan : Obligations.PaletteBulkCommandsWriteTheSpan := by
  refine ⟨fun pal n0 n1 colors rest length =>
    ⟨decodeBulk_append _ pal n0 n1 length rest, decodeBulk_append _ pal n0 n1 length rest⟩, ?_⟩
  intro pal colors s
  refine ⟨⟨_, rfl, rfl, ?_, ?_⟩, ⟨_, rfl, rfl, ?_, ?_⟩⟩
  · exact fun _ => palWriteBulk_last s.bgPal pal.toNat colors
  · exact fun _ _ => palWriteBulk_other s.bgPal pal.toNat colors
  · exact fun _ => palWriteBulk_last s.sprPal pal.toNat colors
  · exact fun _ _ => palWriteBulk_other s.sprPal pal.toNat colors

/-- READ_BG_PALETTE responds the background bank's entry (R118). -/
theorem exec_readBgPalette (pal slot : Byte) (s : State) :
    exec (.readBgPalette pal slot) s = .next (s.respondOk [s.bgPalAt (pal.toNat % 4) (slot.toNat % 4)]) := rfl

/-- READ_SPRITE_PALETTE responds the sprite bank's entry (R145). -/
theorem exec_readSpritePalette (pal slot : Byte) (s : State) :
    exec (.readSpritePalette pal slot) s = .next (s.respondOk [s.sprPalAt (pal.toNat % 4) (slot.toNat % 4)]) := rfl

/-- Settles O32: `exec_readBgPalette` and `exec_readSpritePalette`. -/
theorem paletteReadsRespondTheEntry : Obligations.PaletteReadsRespondTheEntry :=
  ⟨fun _ _ _ => ⟨rfl, rfl⟩, fun pal slot s => ⟨exec_readBgPalette pal slot s, exec_readSpritePalette pal slot s⟩⟩

/-- A palette just written whole gives its own colors back: the table's side of the round trip, at the operands of a
command. -/
theorem palWriteBulk_four_get_self (m : Table Byte) (p c0 c1 c2 c3 k : Byte) (hk : k.toNat < 4) :
    Memory.get unlistedByte (palWriteBulk m p.toNat [c0, c1, c2, c3]) (palKey (p.toNat % 4) (k.toNat % 4)) =
      [c0, c1, c2, c3].getD k.toNat 0 := by
  rw [Nat.mod_eq_of_lt hk, palWriteBulk_four_get m _ _ _ _ _ hk, if_pos rfl]

/-- Settles O33: what the read finds in its bank is the color written there (`palWriteBulk_four_get_self`). -/
theorem paletteRoundTrip : Obligations.PaletteRoundTrip := by
  intro p c0 c1 c2 c3 k s t hk
  constructor <;> intro written <;> cases written
  · rw [← palWriteBulk_four_get_self s.bgPal p c0 c1 c2 c3 k hk]
    exact exec_readBgPalette p k _
  · rw [← palWriteBulk_four_get_self s.sprPal p c0 c1 c2 c3 k hk]
    exact exec_readSpritePalette p k _

/-! ### The pattern-table selectors and the fallback color -/

/-- Settles O34: each command stores its operand, reduced where the field is narrower (R119, R120, R146), and responds. -/
theorem selectorsAndFallbackColorAreStored : Obligations.SelectorsAndFallbackColorAreStored :=
  ⟨fun _ _ => ⟨rfl, rfl, rfl⟩, fun _ _ => ⟨rfl, rfl, rfl⟩⟩

end Sys2Proof.Machine
end

