-- ==== Sys2Proof/Proofs/SpritePlane.lean ====
section
/-! SUPPORT. The statements about the sprite plane (42_sprite.md): the slot commands, the search and the commands that respond
what it finds, and the pixel of a sprite that is hit. -/

namespace Sys2Proof.Machine

/-! ### The slots -/

/-- Settles O36: the slot written is read back whole, any other is as before (`State.sprAt_writeSprite`). -/
theorem setSpriteOverwritesOneSlot : Obligations.SetSpriteOverwritesOneSlot :=
  ⟨fun _ _ _ _ _ _ _ _ _ => rfl, fun slot _ _ _ _ _ s =>
    ⟨_, rfl, rfl, fun i => s.sprAt_writeSprite (spriteIndex slot) i _⟩⟩

/-- Settles O37: as for SET_SPRITE (`State.sprAt_writeSprite`), the slot's other fields being its own. -/
theorem setSpritePositionMovesOneSlot : Obligations.SetSpritePositionMovesOneSlot := by
  refine ⟨fun _ _ _ _ _ _ => rfl, fun slot x y s => ⟨_, rfl, rfl, fun i => ?_⟩⟩
  refine (s.sprAt_writeSprite (spriteIndex slot) i _).trans (ite_congr rfl (fun own => ?_) fun _ => rfl)
  subst own
  rfl

/-- Settles O38: the results are the fields of the slot the reduced operand names. -/
theorem readSpriteRespondsTheSlot : Obligations.ReadSpriteRespondsTheSlot := by
  refine ⟨fun _ _ => rfl, fun slot s p slotHolds => ?_⟩
  subst slotHolds
  rfl

/-! ### The search -/

/-- Settles O39: what the search finds (`State.search_eq`) and how much (`State.search_length_le`). -/
theorem searchFindsTheFirstEightHits : Obligations.SearchFindsTheFirstEightHits := by
  intro s hit first firstEight
  subst firstEight
  exact ⟨s.search_eq hit, s.search_length_le hit⟩

section HitTests

variable (p : Sprite) (x y : Nat)

/-- R150's test of a pixel, as one condition on integers. -/
theorem Sprite.hitPix_iff :
    p.hitPix x y = true ↔ p.tile ≠ 0xFF ∧ (p.x.toInt ≤ (x : Int) ∧ (x : Int) < p.x.toInt + 8) ∧
      (p.y.toInt ≤ (y : Int) ∧ (y : Int) < p.y.toInt + 8) := by
  simp only [Sprite.hitPix, Sprite.live, Sprite.hitX, Sprite.hitY, Bool.and_eq_true, bne_iff_ne,
    decide_eq_true_iff, and_assoc]

/-- R150's test of a row, as one condition on integers. -/
theorem Sprite.hitRow_iff :
    p.hitRow y = true ↔ p.tile ≠ 0xFF ∧ p.y.toInt ≤ (y : Int) ∧ (y : Int) < p.y.toInt + 8 := by
  simp only [Sprite.hitRow, Sprite.live, Sprite.hitY, Bool.and_eq_true, bne_iff_ne, decide_eq_true_iff]

end HitTests

/-- A search is for the condition its hit test decides. -/
theorem State.search_eq_of_hit_iff (s : State) {hit : Sprite → Bool} {c : Sprite → Prop} [DecidablePred c]
    (h : ∀ p, hit p = true ↔ c p) : s.search hit = s.search fun p => decide (c p) :=
  congrArg s.search (funext fun p => Bool.eq_iff_iff.mpr ((h p).trans decide_eq_true_iff.symm))

/-- Settles O40: each command's search is for the condition its hit test decides (`Sprite.hitPix_iff`, `Sprite.hitRow_iff`), and
its results are the two buckets. -/
theorem searchCommandsRespondTheHits : Obligations.SearchCommandsRespondTheHits := by
  refine ⟨fun _ _ _ _ _ => ⟨rfl, rfl⟩, fun x y s front back rowFront rowBack found rowFound => ?_⟩
  have pixel : s.findSpritesPixel x.toNat y.toNat = (front, back) :=
    (s.search_eq_of_hit_iff fun p => p.hitPix_iff x.toNat y.toNat).trans found.symm
  have row : s.findSpritesRow y.toNat = (rowFront, rowBack) :=
    (s.search_eq_of_hit_iff fun p => p.hitRow_iff y.toNat).trans rowFound.symm
  constructor
  · rw [exec, execFindSprites, pixel]
    rfl
  · rw [exec, execFindSpritesRow, row]
    rfl

/-! ### The pixel -/

/-- Settles O41: under a hit both offsets lie in the pattern (`Sprite.hitPix_iff`), where the pixel primitive wraps nothing
(`State.px_inRange`). -/
theorem spritePixelIsReadAtTheOffset : Obligations.SpritePixelIsReadAtTheOffset := by
  intro s i x y dx dy hit offsetX offsetY
  obtain ⟨-, ⟨-, right⟩, -, below⟩ := ((s.sprAt i).hitPix_iff x y).mp hit
  have hdx : dx < 8 := by omega
  have hdy : dy < 8 := by omega
  refine ⟨hdx, hdy, ?_⟩
  rw [State.sprPixel, ← offsetX, ← offsetY]
  exact s.px_inRange s.sprPtSel.isLt (s.sprAt i).tile.isLt hdx hdy

end Sys2Proof.Machine
end

/-! SUPPORT. The statements about the compositor (43_compositor.md; 20_memory.md R55; 60_exceptions.md R206 to R208): its commands,
the order of the layers and the scroll, the raster event, and a whole render. -/

namespace Sys2Proof.Machine

/-! ## Commands, layers and scroll

The statements about the compositor's commands and composition (43_compositor.md R170 to R173, R183, R185, R186):
what each of its commands stores, starts, ends or responds, the order of the layers, and the scrolled sample coordinate. -/

/-! ### Commands -/

/-- Settles O43: the two operands are stored as they are. -/
theorem setScrollStoresTheOffsets : Obligations.SetScrollStoresTheOffsets :=
  ⟨fun _ _ _ _ _ => rfl, fun _ _ _ => rfl⟩

/-- Settles O47: SET_CALLBACK tests BUSY and nothing else. -/
theorem setCallbackStoresTheMask : Obligations.SetCallbackStoresTheMask :=
  ⟨fun _ _ => rfl, fun _ _ => ⟨fun idle => if_neg (ne_true_of_eq_false idle), fun busy => if_pos busy⟩⟩

/-- Settles O48: RENDER tests BUSY and nothing else. -/
theorem renderStartsTheScan : Obligations.RenderStartsTheScan :=
  ⟨fun _ _ _ _ _ _ _ _ _ => rfl, fun _ _ _ _ =>
    ⟨fun idle => if_neg (ne_true_of_eq_false idle), fun busy => if_pos busy⟩⟩

/-- Settles O49: CALLBACK_RETURN tests EVENT_PENDING and nothing else. -/
theorem callbackReturnEndsTheEvent : Obligations.CallbackReturnEndsTheEvent :=
  ⟨fun _ => rfl, fun _ => ⟨fun pending => if_pos pending, fun quiet => if_neg (ne_true_of_eq_false quiet)⟩⟩

/-- A register that exists is responded low byte first. -/
theorem exec_readCtrl_of_some {s : State} {reg : Byte} {v : Half} (h : s.ctrlRegister reg.toNat = some v) :
    exec (.readCtrl reg) s =
      .next { s with responses := s.responses ++ [[0x00, v.extractLsb' 0 8, v.extractLsb' 8 8]] } := by
  rw [exec, execReadCtrl, h]
  rfl

/-- A register that does not exist is refused. -/
theorem exec_readCtrl_of_none {s : State} {reg : Byte} (h : s.ctrlRegister reg.toNat = none) :
    exec (.readCtrl reg) s = .refused .illegalOperand := by
  rw [exec, execReadCtrl, h]

/-- The low byte of a zero-extended register is the register, zero-extended to a byte. -/
theorem extractLowByte_setWidth {w : Nat} (v : BitVec w) : (v.setWidth 16).extractLsb' 0 8 = v.setWidth 8 := by
  apply BitVec.eq_of_toNat_eq
  simp only [extractByte_toNat, BitVec.toNat_setWidth]
  omega

/-- The high byte of a register of at most 8 bits, zero-extended, is 0. -/
theorem extractHighByte_setWidth {w : Nat} (hw : w ≤ 8) (v : BitVec w) : (v.setWidth 16).extractLsb' 8 8 = 0 := by
  have small : v.toNat < 2 ^ 8 := v.isLt.trans_le (Nat.pow_le_pow_right (by decide) hw)
  apply BitVec.eq_of_toNat_eq
  rw [extractByte_toNat, BitVec.toNat_setWidth]
  show _ = 0
  omega

/-- A register of at most 8 bits is responded zero-extended. -/
theorem exec_readCtrl_narrow {s : State} {reg : Byte} {w : Nat} (hw : w ≤ 8) {v : BitVec w}
    (h : s.ctrlRegister reg.toNat = some (v.setWidth 16)) :
    exec (.readCtrl reg) s = .next { s with responses := s.responses ++ [[0x00, v.setWidth 8, 0x00]] } := by
  rw [exec_readCtrl_of_some h, extractLowByte_setWidth, extractHighByte_setWidth hw]

/-- A register of a byte is responded as that byte and 0. -/
theorem exec_readCtrl_byte {s : State} {reg v : Byte} (h : s.ctrlRegister reg.toNat = some (v.setWidth 16)) :
    exec (.readCtrl reg) s = .next { s with responses := s.responses ++ [[0x00, v, 0x00]] } := by
  rw [exec_readCtrl_narrow (Nat.le_refl 8) h, BitVec.setWidth_eq]

/-- STATUS fits its low byte: BUSY in bit 0, EVENT_PENDING in bit 1 (R36). -/
theorem State.status_eq_setWidth (s : State) :
    s.status = BitVec.setWidth 16
      (BitVec.ofNat 8 ((if s.busy then 1 else 0) + (if s.eventPending then 2 else 0))) := by
  unfold State.status
  cases s.busy <;> cases s.eventPending <;> rfl

/-- Settles O50: each register of R36 with its width, STATUS by `State.status_eq_setWidth`, and no register above 8. -/
theorem readCtrlRespondsTheRegister : Obligations.ReadCtrlRespondsTheRegister := by
  refine ⟨fun _ _ => rfl, fun s => ⟨?_, ?_, ?_, ?_, ?_, ?_, ?_, ?_, ?_⟩,
    fun reg s above => exec_readCtrl_of_none ((s.ctrlRegister_none_iff reg.toNat).mpr above)⟩
  · exact exec_readCtrl_narrow (by decide) rfl
  · exact exec_readCtrl_narrow (by decide) rfl
  · exact exec_readCtrl_byte rfl
  · exact exec_readCtrl_of_some rfl
  · exact exec_readCtrl_of_some rfl
  · exact exec_readCtrl_byte rfl
  · exact exec_readCtrl_byte (congrArg some s.status_eq_setWidth)
  · exact exec_readCtrl_of_some rfl
  · exact exec_readCtrl_of_some rfl

/-! ### The order of the layers -/

/-- The first opaque sprite of a list is the first whose pixel is not 0, its palette looked up at that pixel's value. -/
theorem State.firstOpaque_eq_find? (s : State) (x y : Nat) (l : List Nat) :
    s.firstOpaque x y l =
      (l.find? fun i => s.sprPixel i x y != 0).map fun i => s.sprPalAt (s.sprAt i).pal.toNat (s.sprPixel i x y).toNat := by
  induction l with
  | nil => rfl
  | cons i l ih =>
    rw [State.firstOpaque, List.find?_cons]
    by_cases clear : s.sprPixel i x y = 0
    · rw [if_pos clear, ih, clear]
      rfl
    · rw [if_neg clear, bne_iff_ne.mpr clear]
      rfl

/-- The background's layer, by what the lookup at the scrolled coordinate finds. -/
theorem State.bgOpaque_of_bgLookup {s : State} {x y : Nat} {p : Byte} {q c : BitVec 2}
    (lookup : s.bgLookup (s.scrollMap x y).1 (s.scrollMap x y).2 = (p, q, c)) :
    s.bgOpaque x y = if c ≠ 0 then some (s.bgPalAt q.toNat c.toNat) else none := by
  simp only [State.bgOpaque, lookup, ite_not]

/-- Settles O45, layer by layer. -/
theorem theFirstOpaqueLayerWins : Obligations.TheFirstOpaqueLayerWins := by
  intro s x y front back p q c lookup
  rw [State.composite, s.firstOpaque_eq_find? x y front, s.firstOpaque_eq_find? x y back, State.bgOpaque_of_bgLookup lookup]
  cases front.find? fun i => s.sprPixel i x y != 0 with
  | some i => rfl
  | none =>
    by_cases seen : c ≠ 0
    · rw [if_pos seen, if_pos seen]
      rfl
    · rw [if_neg seen, if_neg seen]
      cases back.find? fun i => s.sprPixel i x y != 0 <;> rfl

/-! ### Scroll -/

theorem extentW_pos (m : Mirroring) : 0 < extentW m := by cases m <;> decide
theorem extentH_pos (m : Mirroring) : 0 < extentH m := by cases m <;> decide

/-- A Euclidean remainder by a positive extent, as a natural number, is that remainder and lies below the extent. -/
theorem toNat_emod_extent (a : Int) {extent : Nat} (h : 0 < extent) :
    ((a % (extent : Int)).toNat : Int) = a % (extent : Int) ∧ (a % (extent : Int)).toNat < extent := by
  have := Int.emod_nonneg a (show (extent : Int) ≠ 0 by omega)
  have := Int.emod_lt_of_pos a (show 0 < (extent : Int) by omega)
  omega

/-- Shifting the scroll by a multiple of the extent does not move the remainder. -/
theorem emod_add_scroll {scroll scroll' k : Int} {extent : Nat} (h : scroll' = scroll + k * (extent : Int)) (x : Int) :
    (x + scroll') % (extent : Int) = (x + scroll) % (extent : Int) := by
  rw [h, ← Int.add_assoc, Int.add_mul_emod_self_right]

section Scroll

variable {s s' : State} (hs : s' = { s with scrollX := s'.scrollX, scrollY := s'.scrollY })

include hs

/-- The sprites do not scroll. -/
theorem State.firstOpaque_scrolled (x y : Nat) (l : List Nat) : s'.firstOpaque x y l = s.firstOpaque x y l := by
  rw [State.firstOpaque_eq_find?, State.firstOpaque_eq_find?, hs]
  rfl

/-- The background depends on the scroll only through the sample coordinate. -/
theorem State.bgOpaque_scrolled {x y : Nat} (same : s'.scrollMap x y = s.scrollMap x y) :
    s'.bgOpaque x y = s.bgOpaque x y := by
  have lookup (sx sy : Nat) : s'.bgLookup sx sy = s.bgLookup sx sy := by rw [hs]; rfl
  have color (q c : Nat) : s'.bgPalAt q c = s.bgPalAt q c := by rw [hs]; rfl
  simp only [State.bgOpaque, same, lookup, color]

theorem State.composite_scrolled {x y : Nat} (same : s'.scrollMap x y = s.scrollMap x y) (front back : List Nat) :
    s'.composite x y front back = s.composite x y front back := by
  have fallback : s'.bgColor = s.bgColor := by rw [hs]
  simp only [State.composite, State.firstOpaque_scrolled hs, State.bgOpaque_scrolled hs same, fallback]

end Scroll

/-- Settles O44: the coordinate by the laws of the Euclidean remainder, and the picture depends on the scroll through it alone. -/
theorem scrollIsEuclideanAndPeriodic : Obligations.ScrollIsEuclideanAndPeriodic := by
  refine ⟨fun s x y => ?_, fun s s' j k hs scrollX scrollY x y front back => ?_⟩
  · obtain ⟨remainderX, belowX⟩ := toNat_emod_extent (x + s.scrollX.toInt) (extentW_pos s.mirroring)
    obtain ⟨remainderY, belowY⟩ := toNat_emod_extent (y + s.scrollY.toInt) (extentH_pos s.mirroring)
    exact ⟨remainderX, remainderY, belowX, belowY⟩
  · have mode : s'.mirroring = s.mirroring := by rw [hs]
    refine State.composite_scrolled hs ?_ front back
    simp only [State.scrollMap, mode, emod_add_scroll scrollX, emod_add_scroll scrollY]

/-! ## The raster event

The statements about the raster event (43_compositor.md R181, R182, R184, R188; 60_exceptions.md R206 to R208):
where the scan raises one, what raising it saves, what stands still while it is pending, and how the scan goes on after its
return. -/

/-! ### Running the machine -/

/-- A run takes its first step and goes on from there. -/
theorem run_succ {s t : State} (h : step s = .next t) (n : Nat) :
    Host.Core.run core (n + 1) s = Host.Core.run core n t := by
  have first : core.step s = .next t := h
  simp only [Host.Core.run, first]

/-- A run of two steps. -/
theorem run_two {s t u : State} (first : step s = .next t) (second : step t = .next u) :
    Host.Core.run core 2 s = .next u :=
  (run_succ first 1).trans (run_succ second 0)

/-! ### Raising an event -/

/-- R181's condition on the start of row `y`, bit by bit. -/
theorem State.rowFires_iff (s : State) (y : Nat) :
    s.rowFires y = true ↔
      s.cbCtrl.getLsbD 2 = false ∧ s.cbCtrl.getLsbD 7 = true ∧
        (s.cbCtrl.getLsbD 1 = true ∨ s.cbCtrl.getLsbD 0 = true ∧ y = 0) := by
  simp only [State.rowFires, ctrlAlways, ctrlEnable, ctrlHblank, ctrlVblank, Bool.and_eq_true, Bool.or_eq_true,
    Bool.not_eq_true', beq_iff_eq, and_assoc]

/-- R181's condition on every pixel, bit by bit. -/
theorem State.pixelFires_iff (s : State) :
    s.pixelFires = true ↔ s.cbCtrl.getLsbD 2 = true ∧ s.cbCtrl.getLsbD 7 = true := by
  simp only [State.pixelFires, ctrlAlways, ctrlEnable, Bool.and_eq_true]

/-- A step sends no event while the port does not hold: neither a performed command nor the answer to a refusal or to a rejected
stream does. -/
theorem step_events_of_free {s t : State} (free : s.held = false) (h : step s = .next t) : t.events = s.events := by
  obtain hscan | hidle | hperformed | hrefused | hrejected := step_cases h
  · cases free.symm.trans hscan.1
  · obtain ⟨-, -, rfl⟩ := hidle
    rfl
  · obtain ⟨-, -, _, _, -, hexec⟩ := hperformed
    exact (exec_sameScan hexec).events
  · obtain ⟨-, -, _, _, _, _, -, -, -, rfl⟩ := hrefused
    rfl
  · obtain ⟨-, -, _, _, -, -, rfl⟩ := hrejected
    rfl

/-- In pixel mode no start of a row is a firing point. -/
theorem State.rowFires_of_pixelMode {s : State} (mode : s.pixelMode = true) (y : Nat) : s.rowFires y = false := by
  simp only [State.pixelMode] at mode
  simp [State.rowFires, mode]

/-- What R181 has the scan send at the point where it stands: the event of a row or pixel that is left and fires, else none. -/
def State.eventsDue (s : State) : List RasterEvent :=
  match s.scanPoint with
  | .rowHead y => if y < s.renderH.toNat ∧ s.rowFires y = true then [{ x := 0, y := BitVec.ofNat 16 y }] else []
  | .pixelHead x => if x < s.renderW.toNat ∧ s.pixelFires = true then [{ x := BitVec.ofNat 16 x, y := s.scanY }] else []
  | .rowSearch => []
  | .pixelBody => []

/-- A move of the scan sends the events due, and one is pending after it exactly when there were any. -/
theorem State.ScanMove.sends_eventsDue {s t : State} (move : s.ScanMove t) (quiet : s.eventPending = false) :
    t.events = s.events ++ s.eventsDue ∧ (t.eventPending = true ↔ s.eventsDue ≠ []) := by
  have silent {t : State} (due : s.eventsDue = []) (events : t.events = s.events)
      (pending : t.eventPending = s.eventPending) :
      t.events = s.events ++ s.eventsDue ∧ (t.eventPending = true ↔ s.eventsDue ≠ []) := by
    simp [due, events, pending, quiet]
  cases move with
  | rowTaken point _ mode => exact silent (by simp [State.eventsDue, point, State.rowFires_of_pixelMode mode]) rfl rfl
  | rowQuiet point _ _ noEvent => exact silent (by simp [State.eventsDue, point, noEvent]) rfl rfl
  | rowFires point left _ fires => simp [State.eventsDue, point, left, fires]
  | renderEnds point done => exact silent (by simp [State.eventsDue, point, done.not_gt]) rfl rfl
  | rowSearched point => exact silent (by simp [State.eventsDue, point]) rfl rfl
  | columnQuiet point _ noEvent => exact silent (by simp [State.eventsDue, point, noEvent]) rfl rfl
  | columnFires point left fires => simp [State.eventsDue, point, left, fires]
  | rowEnds point done => exact silent (by simp [State.eventsDue, point, done.not_gt]) rfl rfl
  | pixelDrawn point =>
    rw [State.drawPixel_eq]
    exact silent (by simp [State.eventsDue, point]) rfl rfl

/-- Settles O51: the events due (`State.ScanMove.sends_eventsDue`), with R181's conditions bit by bit (`State.rowFires_iff`,
`State.pixelFires_iff`). -/
theorem eventsAreRaisedExactlyAtTheFiringPoints : Obligations.EventsAreRaisedExactlyAtTheFiringPoints := by
  refine ⟨fun s t free h => step_events_of_free free h, fun s held => ?_⟩
  obtain ⟨sent, pending⟩ := s.scanMove_scanStep.sends_eventsDue (s.held_iff.mp held).2
  refine ⟨s.scanStep, s.eventsDue, step_of_held held, sent, pending, ?_⟩
  unfold State.eventsDue
  rcases s.scanPoint with y | _ | x | _
  · simp only [State.rowFires_iff]
  · rfl
  · simp only [State.pixelFires_iff]
  · rfl

/-- Settles O52: an event is pending after a move only if the move raised it, with the scan's position as it set it. -/
theorem raisingAnEventSavesThePosition : Obligations.RaisingAnEventSavesThePosition := by
  intro s t held h pending
  cases (step_of_held held).symm.trans h
  obtain ⟨-, quiet⟩ := s.held_iff.mp held
  have move := s.scanMove_scanStep
  generalize s.scanStep = t at move pending
  cases move with
  | rowFires | columnFires => exact ⟨rfl, rfl, rfl, rfl⟩
  | pixelDrawn => rw [State.drawPixel_eq] at pending; cases quiet.symm.trans pending
  | _ => cases quiet.symm.trans pending

/-! ### While an event is pending -/

/-- A pending event lifts the hold (R203). -/
theorem State.held_of_pending {s : State} (pending : s.eventPending = true) : s.held = false := by
  simp [State.held, pending]

/-- Settles O53: with the hold lifted no move of the scan is made, and the one command that writes the scan, RENDER, is
refused. -/
theorem aPendingEventStallsTheScan : Obligations.APendingEventStallsTheScan := by
  intro s t busy pending h
  have ends_only (kept : t.eventPending = s.eventPending) (ended : t.eventPending = false) :
      ∃ rest, decode s.port = .ok (.callbackReturn, rest) := nomatch pending.symm.trans (kept.symm.trans ended)
  obtain hscan | hidle | hperformed | hrefused | hrejected := step_cases h
  · cases (State.held_of_pending pending).symm.trans hscan.1
  · obtain ⟨-, -, rfl⟩ := hidle
    exact ⟨⟨busy, rfl, rfl, rfl, rfl, rfl, rfl, rfl, rfl, rfl, rfl, rfl, rfl⟩, ends_only rfl⟩
  · obtain ⟨-, -, i, rest, hdec, hexec⟩ := hperformed
    obtain ⟨_, _, _, -, idle, -⟩ | ⟨-, hbusy, renderW, renderH, fbLen, point, event, -⟩ := exec_next_cases hexec
    · cases busy.symm.trans idle
    · have same := exec_sameScan hexec
      refine ⟨⟨hbusy.trans busy, renderW, renderH, fbLen, same.scanX, same.scanY, point, same.rowFront, same.rowBack,
        same.eventX, same.eventY, same.events, same.fb⟩, ?_⟩
      obtain kept | ⟨rfl, -, -⟩ := event
      · exact ends_only kept
      · exact fun _ => ⟨rest, hdec⟩
  · obtain ⟨-, -, _, _, _, _, -, -, -, rfl⟩ := hrefused
    exact ⟨⟨busy, rfl, rfl, rfl, rfl, rfl, rfl, rfl, rfl, rfl, rfl, rfl, rfl⟩, ends_only rfl⟩
  · obtain ⟨-, -, _, _, -, -, rfl⟩ := hrejected
    exact ⟨⟨busy, rfl, rfl, rfl, rfl, rfl, rfl, rfl, rfl, rfl, rfl, rfl, rfl⟩, ends_only rfl⟩

/-- While an event is pending none of the causes of a refusal (R201) meets a command but RENDER, SET_CALLBACK and a READ_CTRL of
a register that does not exist, so the command is performed and responds OK. -/
theorem exec_accepted_of_pending {i : Instr} {s : State} (busy : s.busy = true) (pending : s.eventPending = true)
    (notRender : ∀ w h len, i ≠ .render w h len) (notSetCallback : ∀ ctrl, i ≠ .setCallback ctrl)
    (listed : ∀ reg, i = .readCtrl reg → reg.toNat ≤ 8) :
    ∃ t r, exec i s = .next t ∧ t.responses = s.responses ++ [0x00 :: r] := by
  cases he : exec i s with
  | next t =>
    obtain ⟨_, _, _, -, idle, -⟩ | ⟨⟨r, sent⟩, -⟩ := exec_next_cases he
    · cases busy.symm.trans idle
    · exact ⟨t, r, rfl, sent⟩
  | fault f => cases f
  | refused r =>
    obtain ⟨-, -, ⟨w, h, len, rfl⟩ | ⟨ctrl, rfl⟩⟩ | ⟨quiet, -, -⟩ | ⟨-, reg, missing, rfl⟩ := exec_refused_cases he
    · exact absurd rfl (notRender w h len)
    · exact absurd rfl (notSetCallback ctrl)
    · cases quiet.symm.trans pending
    · exact absurd ((s.ctrlRegister_none_iff _).mp missing) (listed reg rfl).not_gt

/-- Settles O54: RENDER and SET_CALLBACK test BUSY; the others are accepted (`exec_accepted_of_pending`). -/
theorem commandsAreAcceptedDuringAnEvent : Obligations.CommandsAreAcceptedDuringAnEvent := by
  intro i s busy pending
  cases i with
  | render | setCallback => exact if_pos busy
  | readCtrl reg =>
    exact fun listed => exec_accepted_of_pending busy pending nofun nofun fun _ same => Instr.readCtrl.inj same ▸ listed
  | _ => exact exec_accepted_of_pending busy pending nofun nofun nofun

/-! ### After the event -/

/-- The state after a CALLBACK_RETURN is performed, with the bytes `rest` left on the port. -/
def State.eventReturned (s : State) (rest : List Byte) : State :=
  { s with eventPending := false, port := rest, responses := s.responses ++ [[0x00]] }

/-- CALLBACK_RETURN next on the port ends a pending event in one step. -/
theorem step_of_callbackReturn {s : State} {rest : List Byte} (pending : s.eventPending = true)
    (next : s.port = 0x43 :: rest) : step s = .next (s.eventReturned rest) := by
  have read : decode s.port = .ok (.callbackReturn, rest) := by rw [next]; rfl
  exact step_of_exec_next (State.held_of_pending pending) read (if_pos pending)

/-- In pixel mode a pixel is composed with the sprites of its own search (R180). -/
theorem State.pixelColor_of_pixelMode {s : State} (mode : s.pixelMode = true) (x y : Nat) :
    s.pixelColor x y = s.composite x y (s.findSpritesPixel x y).1 (s.findSpritesPixel x y).2 := by
  rw [State.pixelColor, State.pixelSprites, if_pos mode]

/-- Settles O55: the return is the first step and lifts the stall; the second is the scan's, at the point where it stalled. -/
theorem theEventComesBeforeSearchAndPixel : Obligations.TheEventComesBeforeSearchAndPixel := by
  intro s rest busy pending next
  have returned := step_of_callbackReturn pending next
  have resumed : step (s.eventReturned rest) = .next (s.eventReturned rest).scanStep :=
    step_of_held ((State.held_iff _).mpr ⟨busy, rfl⟩)
  have picture : s.SamePicture (s.eventReturned rest) := by constructor <;> rfl
  refine ⟨fun point => (run_two returned resumed).trans ?_, fun point mode inside => ⟨_, run_two returned resumed, ?_⟩⟩
  · rw [State.scanStep_rowSearch (s := s.eventReturned rest) point, State.searchRow, picture.findSpritesRow]
    rfl
  · rw [State.scanStep_pixelBody (s := s.eventReturned rest) point, ← State.pixelColor_of_pixelMode mode,
      ← picture.pixelColor rfl rfl rfl]
    exact (State.fbAt_drawPixel _ _).trans (if_pos ⟨rfl, inside⟩)

/-! ## A whole render

The statement about a whole render (43_compositor.md R183, R187; 20_memory.md R55): with no callback installed the
scan draws the frame of the spec's loop and ends. An invariant of the scan (`State.Rendering`) says how much of the frame stands
in the framebuffer at each point of the loop, and a count of the steps left (`State.stepsLeft`) says that the loop ends. -/

/-! ### The frame to be drawn -/

/-- The color R183's loop gives pixel `(x, y)` of the frame, composed from state `s` with the sprite lists of the render's mode
(R180). -/
def State.frameColor (s : State) (x y : Nat) : Byte :=
  if s.pixelMode then s.composite x y (s.findSpritesPixel x y).1 (s.findSpritesPixel x y).2
  else s.composite x y ((s.findSpritesRow y).1.filter fun i => (s.sprAt i).hitX x)
    ((s.findSpritesRow y).2.filter fun i => (s.sprAt i).hitX x)

/-- The frame depends on the picture and the render's mode alone. -/
theorem State.SamePicture.frameColor {s t : State} (same : s.SamePicture t) (ctrl : t.cbCtrl = s.cbCtrl) (x y : Nat) :
    t.frameColor x y = s.frameColor x y := by
  have mode : t.pixelMode = s.pixelMode := by rw [State.pixelMode, State.pixelMode, ctrl]
  simp only [State.frameColor, mode, same.composite, same.findSpritesPixel, same.findSpritesRow, same.sprAt]

/-- In row mode, from a row's search to its end, the row set of `t` is what the search of that row finds in `s`. -/
def State.RowSetFound (s t : State) : Prop :=
  t.pixelMode = false →
    match t.scanPoint with
    | .rowHead _ => True
    | .rowSearch => True
    | .pixelHead _ => (t.rowFront, t.rowBack) = s.findSpritesRow t.scanY.toNat
    | .pixelBody => (t.rowFront, t.rowBack) = s.findSpritesRow t.scanY.toNat

/-- The pixel about to be composed has the color the frame has there. -/
theorem State.pixelColor_eq_frameColor {s t : State} (ppu : s.SamePpu t) (point : t.scanPoint = .pixelBody)
    (found : s.RowSetFound t) :
    t.pixelColor t.scanX.toNat t.scanY.toNat = s.frameColor t.scanX.toNat t.scanY.toNat := by
  cases mode : t.pixelMode
  · have row := found mode
    rw [point] at row
    rw [State.frameColor, ← ppu.pixelMode, if_neg (ne_true_of_eq_false mode), ← row, State.pixelColor,
      ppu.picture.composite, State.pixelSprites, if_neg (ne_true_of_eq_false mode)]
    simp only [ppu.picture.sprAt]
  · rw [State.pixelColor_of_pixelMode mode, ppu.picture.composite, ppu.picture.findSpritesPixel, State.frameColor,
      ← ppu.pixelMode, if_pos mode]

/-- How many pixels of the frame the loop has passed, row by row, at the point where the scan stands. -/
def State.pixelsDone (s : State) : Nat :=
  match s.scanPoint with
  | .rowHead y => y * s.renderW.toNat
  | .rowSearch => s.scanY.toNat * s.renderW.toNat
  | .pixelHead x => s.scanY.toNat * s.renderW.toNat + x
  | .pixelBody => s.scanY.toNat * s.renderW.toNat + s.scanX.toNat

/-- `s.FrameDrawn k t`: of the frame that `s` has to draw, the first `k` pixels stand in the framebuffer of `t`, those at or past
FB_LEN dropped (R55); every other entry is that of `s`. -/
def State.FrameDrawn (s : State) (k : Nat) (t : State) : Prop :=
  ∀ j, t.fbAt j =
    if j < k ∧ j < s.fbLen.toNat then some (s.frameColor (j % s.renderW.toNat) (j / s.renderW.toNat)) else s.fbAt j

/-! ### What a move of the scan keeps -/

/-- `t` differs from `s` in the framebuffer, the scan's position, point and row set alone. -/
def State.SameButScan (s t : State) : Prop :=
  t = { s with fb := t.fb, scanX := t.scanX, scanY := t.scanY, rowFront := t.rowFront, rowBack := t.rowBack,
               scanPoint := t.scanPoint }

namespace State.SameButScan

variable {s t u : State}

theorem trans (h : s.SameButScan t) (h' : t.SameButScan u) : s.SameButScan u := Eq.trans h' (by rw [h])

theorem samePpu (h : s.SameButScan t) : s.SamePpu t := by
  rw [h]
  exact ⟨by constructor <;> rfl, rfl, rfl, rfl, rfl⟩

theorem held (h : s.SameButScan t) : t.held = s.held := by rw [h]; rfl

end State.SameButScan

/-- With ENABLE clear there is no firing point (R181). -/
theorem State.rowFires_of_disabled {s : State} (disabled : ctrlEnable s.cbCtrl = false) (y : Nat) : s.rowFires y = false := by
  simp [State.rowFires, disabled]

theorem State.pixelFires_of_disabled {s : State} (disabled : ctrlEnable s.cbCtrl = false) : s.pixelFires = false := by
  simp [State.pixelFires, disabled]

/-- The steps the scan has left before the render's end: at most `2·RW + 3` a row. -/
def State.stepsLeft (s : State) : Nat :=
  match s.scanPoint with
  | .rowHead y => (s.renderH.toNat - y) * (2 * s.renderW.toNat + 3)
  | .rowSearch => (s.renderH.toNat - (s.scanY.toNat + 1)) * (2 * s.renderW.toNat + 3) + (2 * s.renderW.toNat + 2)
  | .pixelHead x =>
    (s.renderH.toNat - (s.scanY.toNat + 1)) * (2 * s.renderW.toNat + 3) + (2 * (s.renderW.toNat - x) + 1)
  | .pixelBody =>
    (s.renderH.toNat - (s.scanY.toNat + 1)) * (2 * s.renderW.toNat + 3) + 2 * (s.renderW.toNat - s.scanX.toNat)

/-- A row that is left has its own `2·RW + 3` steps and those of the rows after it. -/
theorem rowsLeft_mul {y h : Nat} (left : y < h) (k : Nat) : (h - y) * k = (h - (y + 1)) * k + k := by
  rw [show h - y = h - (y + 1) + 1 by omega, Nat.succ_mul]

namespace State.ScanMove

variable {s t : State}

/-- While ENABLE is clear, a move that does not end the render changes the framebuffer and the scan's own state alone. -/
theorem sameButScan (move : s.ScanMove t) (disabled : ctrlEnable s.cbCtrl = false) (goes_on : t.busy = true) :
    s.SameButScan t := by
  cases move with
  | rowFires _ _ _ fires => cases (State.rowFires_of_disabled disabled _).symm.trans fires
  | columnFires _ _ fires => cases (State.pixelFires_of_disabled disabled).symm.trans fires
  | renderEnds => cases goes_on
  | pixelDrawn =>
    rw [State.drawPixel_eq]
    rfl
  | _ => rfl

/-- The row set is found by the row's search and kept to the row's end. -/
theorem rowSetFound {start : State} (move : s.ScanMove t) (picture : start.SamePicture s) (found : start.RowSetFound s) :
    start.RowSetFound t := by
  intro mode
  cases move with
  | rowTaken _ _ always => cases always.symm.trans mode
  | rowQuiet | rowFires | renderEnds | rowEnds => trivial
  | rowSearched => exact picture.findSpritesRow s.scanY.toNat
  | columnQuiet point | columnFires point =>
    have row := found mode
    rw [point] at row
    exact row
  | pixelDrawn point =>
    rw [State.drawPixel_eq] at mode ⊢
    have row := found mode
    rw [point] at row
    exact row

/-- No pixel of the frame is passed but by drawing it: at a row's end the scan stands at the frame's right edge. -/
theorem pixelsDone_eq (move : s.ScanMove t) (inFrame : s.ScanInFrame) (busy : s.busy = true) (goes_on : t.busy = true)
    (elsewhere : s.scanPoint ≠ .pixelBody) : t.pixelsDone = s.pixelsDone := by
  have place := inFrame busy
  cases move with
  | rowTaken point left | rowQuiet point left | rowFires point left =>
    simp [State.pixelsDone, State.fire, point, toNat_ofNat_of_lt_half left]
  | renderEnds => cases goes_on
  | rowSearched point => simp [State.pixelsDone, State.searchRow, point]
  | columnQuiet point left | columnFires point left =>
    simp [State.pixelsDone, State.fire, point, toNat_ofNat_of_lt_half left]
  | @rowEnds x point done =>
    rw [point] at place
    have edge : x = s.renderW.toNat := place.1.antisymm done
    simp [State.pixelsDone, point, edge, Nat.succ_mul]
  | pixelDrawn point => exact absurd point elsewhere

/-- Every move leaves fewer steps to the render's end. -/
theorem stepsLeft_lt (move : s.ScanMove t) (inFrame : s.ScanInFrame) (busy : s.busy = true) (goes_on : t.busy = true) :
    t.stepsLeft < s.stepsLeft := by
  have place := inFrame busy
  cases move with
  | rowTaken point left | rowQuiet point left | rowFires point left =>
    simp only [State.stepsLeft, State.fire, point, toNat_ofNat_of_lt_half left, rowsLeft_mul left]
    omega
  | renderEnds => cases goes_on
  | rowSearched point =>
    simp only [State.stepsLeft, State.searchRow, point]
    omega
  | columnQuiet point left | columnFires point left =>
    simp only [State.stepsLeft, State.fire, point, toNat_ofNat_of_lt_half left]
    omega
  | rowEnds point =>
    simp only [State.stepsLeft, point]
    omega
  | pixelDrawn point =>
    rw [point] at place
    rw [State.drawPixel_eq]
    simp only [State.stepsLeft, point]
    omega

end State.ScanMove

/-! ### The invariant of a render -/

/-- Row-major order: the number of a pixel gives its column and its row. -/
theorem rowMajor_mod_div {x w : Nat} (left : x < w) (y : Nat) : (y * w + x) % w = x ∧ (y * w + x) / w = y := by
  refine ⟨by rw [Nat.mul_add_mod', Nat.mod_eq_of_lt left], ?_⟩
  rw [Nat.mul_comm, Nat.mul_add_div (by omega), Nat.div_eq_of_lt left, Nat.add_zero]

/-- The render that `s` begins has come to `t`: only the framebuffer and the scan have changed, and what the loop has passed is
drawn. -/
structure State.Rendering (s t : State) : Prop where
  same : s.SameButScan t
  inFrame : t.ScanInFrame
  rowSet : s.RowSetFound t
  drawn : s.FrameDrawn t.pixelsDone t

namespace State.Rendering

variable {s t : State}

/-- Drawing the next pixel of the frame draws the frame one pixel further. -/
theorem frameDrawn_drawPixel (h : s.Rendering t) (busy : t.busy = true) (point : t.scanPoint = .pixelBody) :
    s.FrameDrawn t.drawPixel.pixelsDone t.drawPixel := by
  have ppu := h.same.samePpu
  have place := h.inFrame busy
  have drawn := h.drawn
  rw [point] at place
  simp only [State.pixelsDone, point] at drawn
  have next : t.drawPixel.pixelsDone = t.scanY.toNat * t.renderW.toNat + t.scanX.toNat + 1 := by
    rw [State.drawPixel_eq]
    rfl
  obtain ⟨column, row⟩ := rowMajor_mod_div place.1 t.scanY.toNat
  intro j
  rw [next, State.fbAt_drawPixel, State.pixelColor_eq_frameColor ppu point h.rowSet, drawn j, ← ppu.fbLen, ← ppu.renderW]
  by_cases own : j = t.scanY.toNat * t.renderW.toNat + t.scanX.toNat
  · rw [own, column, row]
    simp
  · have earlier : j < t.scanY.toNat * t.renderW.toNat + t.scanX.toNat + 1 ↔
        j < t.scanY.toNat * t.renderW.toNat + t.scanX.toNat := by omega
    simp only [own, false_and, if_false, earlier]

/-- A step of the scan that does not end the render keeps the invariant. -/
theorem scanStep (h : s.Rendering t) (disabled : ctrlEnable s.cbCtrl = false) (busy : t.busy = true)
    (goes_on : t.scanStep.busy = true) : s.Rendering t.scanStep := by
  have move := t.scanMove_scanStep
  have quiet : ctrlEnable t.cbCtrl = false := by rw [h.same.samePpu.cbCtrl, disabled]
  refine ⟨h.same.trans (move.sameButScan quiet goes_on), move.scanInFrame busy h.inFrame,
    move.rowSetFound h.same.samePpu.picture h.rowSet, ?_⟩
  by_cases body : t.scanPoint = .pixelBody
  · rw [State.scanStep_pixelBody body]
    exact h.frameDrawn_drawPixel busy body
  · have unwritten : t.scanStep.fb = t.fb := t.scanStep_fb_cases.resolve_right body
    rw [move.pixelsDone_eq h.inFrame busy goes_on body]
    intro j
    rw [State.fbAt, unwritten]
    exact h.drawn j

/-- The render comes to its end, by induction on the steps left. -/
theorem reaches_end {t : State} (h : s.Rendering t) (held : s.held = true) (disabled : ctrlEnable s.cbCtrl = false) :
    ∃ n u, Host.Core.run core n t = .next u.endRender ∧ s.Rendering u ∧
      ∃ y, u.scanPoint = .rowHead y ∧ u.renderH.toNat ≤ y := by
  have still : t.held = true := h.same.held.trans held
  have busy : t.busy = true := (t.held_iff.mp still).1
  have next : step t = .next t.scanStep := step_of_held still
  obtain ⟨kept, -⟩ | ⟨ends, point⟩ := t.scanStep_busy_cases
  · have goes_on : t.scanStep.busy = true := kept.trans busy
    have fewer : t.scanStep.stepsLeft < t.stepsLeft := t.scanMove_scanStep.stepsLeft_lt h.inFrame busy goes_on
    obtain ⟨n, u, ran, atEnd⟩ := (h.scanStep disabled busy goes_on).reaches_end held disabled
    exact ⟨n + 1, u, (run_succ next n).trans ran, atEnd⟩
  · exact ⟨1, t, (run_succ next 0).trans (congrArg _ ends), h, point⟩
termination_by t.stepsLeft

/-- After the last row the whole frame is drawn. -/
theorem frameDrawn_all (h : s.Rendering t) (busy : t.busy = true) {y : Nat} (point : t.scanPoint = .rowHead y)
    (done : t.renderH.toNat ≤ y) : s.FrameDrawn (s.renderW.toNat * s.renderH.toNat) t := by
  have ppu := h.same.samePpu
  have place := h.inFrame busy
  have drawn := h.drawn
  rw [point] at place
  have last : y = t.renderH.toNat := Nat.le_antisymm place done
  simp only [State.pixelsDone, point, last, ppu.renderW, ppu.renderH] at drawn
  rwa [Nat.mul_comm]

end State.Rendering

/-- The state in which a render of `s` begins, with the bytes `rest` left on the port. -/
def State.renderStarted (s : State) (w h : Half) (len : Word) (rest : List Byte) : State :=
  { s with port := rest, busy := true, renderW := w, renderH := h, fbLen := len, scanPoint := .rowHead 0 }

/-- An idle machine with a RENDER on the port starts the render in one step. -/
theorem step_of_render {s : State} {w h : Half} {len : Word} {rest : List Byte} (idle : s.busy = false)
    (command : s.port = encode (.render w h len) ++ rest) : step s = .next (s.renderStarted w h len rest) := by
  have free : s.held = false := by simp [State.held, idle]
  have read : decode s.port = .ok (.render w h len, rest) := by
    rw [command]
    exact decodeOfEncodeIsTheCommand _ _ rfl
  exact step_of_exec_next free read (if_neg (ne_true_of_eq_false idle))

/-- A render begins with nothing drawn. -/
theorem State.rendering_renderStarted (s : State) (w h : Half) (len : Word) (rest : List Byte) :
    (s.renderStarted w h len rest).Rendering (s.renderStarted w h len rest) where
  same := rfl
  inFrame := fun _ => Nat.zero_le _
  rowSet := fun _ => trivial
  drawn := fun j => by simp [State.pixelsDone, State.renderStarted]

/-- Settles O59: the render comes to its end (`State.Rendering.reaches_end`) with the whole frame drawn
(`State.Rendering.frameDrawn_all`). -/
theorem aRenderWithoutCallbackDrawsTheFrame : Obligations.ARenderWithoutCallbackDrawsTheFrame := by
  intro s w h len rest idle quiet disabled command
  have held : (s.renderStarted w h len rest).held = true := (State.held_iff _).mpr ⟨rfl, quiet⟩
  obtain ⟨n, u, ran, rendered, y, point, done⟩ :=
    (s.rendering_renderStarted w h len rest).reaches_end held disabled
  have busy : u.busy = true := ((State.held_iff u).mp (rendered.same.held.trans held)).1
  have picture : s.SamePicture (s.renderStarted w h len rest) := by constructor <;> rfl
  have drawn (i : Nat) : u.endRender.fbAt i =
      if i < w.toNat * h.toNat ∧ i < len.toNat then some (s.frameColor (i % w.toNat) (i / w.toNat)) else s.fbAt i :=
    (rendered.frameDrawn_all busy point done i).trans (by rw [picture.frameColor rfl]; rfl)
  refine ⟨n + 1, u.endRender, (run_succ (step_of_render idle command) n).trans ran, rfl, fun x y hx hy inside => ?_,
    fun i outside => (drawn i).trans (if_neg (by omega)), ?_⟩
  · obtain ⟨column, row⟩ := rowMajor_mod_div hx y
    have inFrame : y * w.toNat + x < w.toNat * h.toNat := by
      calc y * w.toNat + x < (y + 1) * w.toNat := by rw [Nat.succ_mul]; omega
        _ ≤ h.toNat * w.toNat := Nat.mul_le_mul_right _ hy
        _ = w.toNat * h.toNat := Nat.mul_comm _ _
    rw [drawn, if_pos ⟨inFrame, inside⟩, column, row]
    rfl
  · rw [rendered.same, idle]
    rfl

end Sys2Proof.Machine

/-! SUPPORT. The statements about refusals and the port's hold (60_exceptions.md R200, R201, R203, R215). -/

namespace Sys2Proof.Machine

/-! ### The next state, and the refusals -/

/-- Settles O9: each kind of step has its next state, since no command ends in a fault (R200) and every cause of a refusal has a
code (R201). -/
theorem everyStepAnswersANextState : Obligations.EveryStepAnswersANextState := by
  intro s
  cases held : s.held with
  | true => exact ⟨_, step_of_held held⟩
  | false =>
    by_cases empty : s.port = []
    · exact ⟨s, step_of_portEmpty held empty⟩
    cases read : decode s.port with
    | error e => cases e <;> exact ⟨_, step_of_decode_error held empty read⟩
    | ok front =>
      obtain ⟨i, rest⟩ := front
      cases outcome : exec i { s with port := rest } with
      | next t => exact ⟨t, step_of_exec_next held read outcome⟩
      | fault f => exact absurd outcome (exec_ne_fault _ _ f)
      | refused r =>
        obtain ⟨c, code⟩ := code_of_refused outcome
        exact ⟨_, step_of_exec_refused held read outcome code⟩

/-- Settles O14: `step_of_portEmpty`. -/
theorem nothingHappensUntilACommandArrives : Obligations.NothingHappensUntilACommandArrives :=
  fun _ => step_of_portEmpty

/-- Settles O12: a refusal has one of R201's causes (`exec_refused_cases`), and each of the causes refuses its commands. -/
theorem commandsAreRefusedExactlyWhenTheTableSays : Obligations.CommandsAreRefusedExactlyWhenTheTableSays := by
  intro i s r
  constructor
  · intro refused
    obtain busy | quiet | ⟨rfl, reg, missing, rfl⟩ := exec_refused_cases refused
    · exact .inl busy
    · exact .inr (.inl quiet)
    · exact .inr (.inr ⟨rfl, reg, (s.ctrlRegister_none_iff _).mp missing, rfl⟩)
  · rintro (⟨busy, rfl, ⟨w, h, len, rfl⟩ | ⟨ctrl, rfl⟩⟩ | ⟨quiet, rfl, rfl⟩ | ⟨rfl, reg, above, rfl⟩)
    · exact if_pos busy
    · exact if_pos busy
    · exact if_neg (ne_true_of_eq_false quiet)
    · exact exec_readCtrl_of_none ((s.ctrlRegister_none_iff _).mpr above)

/-! ### The hold -/

/-- Settles O13: the step is the scan's, which takes nothing from the port (`State.scanStep_port`) and leaves BUSY and the
responses alone but at the render's end (`State.scanStep_busy_cases`). -/
theorem thePortHoldsDuringTheScan : Obligations.ThePortHoldsDuringTheScan := by
  intro s busy quiet
  refine ⟨s.scanStep, step_of_held (s.held_iff.mpr ⟨busy, quiet⟩), s.scanStep_port, ?_⟩
  obtain ⟨same, sent⟩ | ⟨ends, -⟩ := s.scanStep_busy_cases
  · exact .inl ⟨same.trans busy, sent⟩
  · exact .inr (ends ▸ ⟨rfl, rfl⟩)

/-- A bound on the steps before the render's end that holds of every state: at a pixel past the frame's right edge, where no run
from reset stands, there are two more than `State.stepsLeft` counts, the pixel's and the row's end. -/
def State.stepsLeftAnywhere (s : State) : Nat :=
  s.stepsLeft + if s.scanPoint = .pixelBody ∧ s.renderW.toNat ≤ s.scanX.toNat then 2 else 0

/-- Every move leaves fewer steps to the render's end, wherever the scan stands. -/
theorem State.ScanMove.stepsLeftAnywhere_lt {s t : State} (move : s.ScanMove t) (goes_on : t.busy = true) :
    t.stepsLeftAnywhere < s.stepsLeftAnywhere := by
  cases move with
  | rowTaken point left | rowQuiet point left | rowFires point left =>
    simp [State.stepsLeftAnywhere, State.stepsLeft, State.fire, point, toNat_ofNat_of_lt_half left, rowsLeft_mul left]
  | renderEnds => cases goes_on
  | rowSearched point => simp [State.stepsLeftAnywhere, State.stepsLeft, State.searchRow, point]
  | columnQuiet point left | columnFires point left =>
    simp [State.stepsLeftAnywhere, State.stepsLeft, State.fire, point, toNat_ofNat_of_lt_half left, left.not_ge]
  | rowEnds point => simp [State.stepsLeftAnywhere, State.stepsLeft, point]
  | pixelDrawn point =>
    rw [State.drawPixel_eq]
    simp only [State.stepsLeftAnywhere, State.stepsLeft, point, true_and, reduceCtorEq, false_and, if_false]
    split <;> omega

/-- At most `2·RW + 3` steps for each row of the frame and for the row where the scan stands. -/
theorem State.stepsLeftAnywhere_le (s : State) :
    s.stepsLeftAnywhere ≤ (s.renderH.toNat + 1) * (2 * s.renderW.toNat + 3) := by
  have rows (y : Nat) : (s.renderH.toNat - y) * (2 * s.renderW.toNat + 3) ≤ s.renderH.toNat * (2 * s.renderW.toNat + 3) :=
    Nat.mul_le_mul_right _ (Nat.sub_le _ _)
  have rowsAfter := rows (s.scanY.toNat + 1)
  rw [Nat.succ_mul]
  simp only [State.stepsLeftAnywhere, State.stepsLeft]
  rcases s.scanPoint with y | _ | x | _
  · have rowsFrom := rows y
    simp only [reduceCtorEq, false_and, if_false]
    omega
  · simp only [reduceCtorEq, false_and, if_false]
    omega
  · simp only [reduceCtorEq, false_and, if_false]
    omega
  · simp only [true_and]
    split <;> omega

/-- The hold lifts, at an event or at the render's end, by induction on the steps left. -/
theorem hold_lifts {s : State} (held : s.held = true) :
    ∃ n t, n ≤ s.stepsLeftAnywhere + 1 ∧ Host.Core.run core n s = .next t ∧ t.held = false := by
  have next : step s = .next s.scanStep := step_of_held held
  cases still : s.scanStep.held with
  | false => exact ⟨1, s.scanStep, Nat.le_add_left _ _, run_succ next 0, still⟩
  | true =>
    have fewer : s.scanStep.stepsLeftAnywhere < s.stepsLeftAnywhere :=
      s.scanMove_scanStep.stepsLeftAnywhere_lt (s.scanStep.held_iff.mp still).1
    obtain ⟨n, t, bound, ran, lifted⟩ := hold_lifts still
    exact ⟨n + 1, t, by omega, (run_succ next n).trans ran, lifted⟩
termination_by s.stepsLeftAnywhere

/-- Settles O16: the hold lifts within the steps left (`hold_lifts`), of which there are at most the bound's
(`State.stepsLeftAnywhere_le`). -/
theorem theHoldLiftsWithinABound : Obligations.TheHoldLiftsWithinABound := by
  intro s held
  obtain ⟨n, t, bound, ran, lifted⟩ := hold_lifts held
  exact ⟨n, t, bound.trans (Nat.succ_le_succ s.stepsLeftAnywhere_le), ran, lifted⟩

end Sys2Proof.Machine
